-- ==== Sys2Proof/Word.lean ====
section
/-! DEFINITION. The word types of the CHIP-8 core (spec/00_scope.md R9, spec/30_encoding.md R91). -/

namespace Sys2Proof

/-- A byte of memory, a general register, a timer, the immediate `kk` (R21, R28, R60, R91). -/
abbrev Byte := BitVec 8

/-- An instruction word, I, PC, a return address (R24, R25, R27, R90). -/
abbrev Word := BitVec 16

/-- The encoded fields `x` and `y`: a general register's number, 0..15 (R21, R91). -/
abbrev RegNum := BitVec 4

/-- The encoded field `n` (R91). -/
abbrev Nibble := BitVec 4

/-- The encoded field `nnn` (R91). -/
abbrev Addr12 := BitVec 12

/-- A key code, `0x0`..`0xF` (spec/00_scope.md R6 `KEY_RANGE`). -/
abbrev Key := BitVec 4

end Sys2Proof
end

