-- ==== Sys2Proof/Syntax.lean ====
section
/-! DEFINITION. The instructions: one constructor per row of spec/opcode_table.json, in the table's order, with the
fields the row names (spec/30_encoding.md R91, R101). -/

namespace Sys2Proof

/-- The 35 instructions of R101. -/
inductive Instr where
  | cls                                      -- CLS      00E0  R151
  | ret                                      -- RET      00EE  R170
  | sys (nnn : Addr12)                       -- SYS      0nnn  R127
  | jp (nnn : Addr12)                        -- JP       1nnn  R171
  | call (nnn : Addr12)                      -- CALL     2nnn  R172
  | seImm (x : RegNum) (kk : Byte)           -- SE_imm   3xkk  R173
  | sneImm (x : RegNum) (kk : Byte)          -- SNE_imm  4xkk  R174
  | seReg (x y : RegNum)                     -- SE_reg   5xy0  R175
  | sneReg (x y : RegNum)                    -- SNE_reg  9xy0  R176
  | ldImm (x : RegNum) (kk : Byte)           -- LD_imm   6xkk  R201
  | addImm (x : RegNum) (kk : Byte)          -- ADD_imm  7xkk  R202
  | ldReg (x y : RegNum)                     -- LD_reg   8xy0  R203
  | orReg (x y : RegNum)                     -- OR       8xy1  R204
  | andReg (x y : RegNum)                    -- AND      8xy2  R205
  | xorReg (x y : RegNum)                    -- XOR      8xy3  R206
  | addReg (x y : RegNum)                    -- ADD_reg  8xy4  R207
  | sub (x y : RegNum)                       -- SUB      8xy5  R208
  | shr (x y : RegNum)                       -- SHR      8xy6  R209
  | subn (x y : RegNum)                      -- SUBN     8xy7  R210
  | shl (x y : RegNum)                       -- SHL      8xyE  R211
  | ldI (nnn : Addr12)                       -- LD_I     Annn  R240
  | jpV0 (nnn : Addr12)                      -- JP_V0    Bnnn  R177
  | rnd (x : RegNum) (kk : Byte)             -- RND      Cxkk  R212
  | drw (x y : RegNum) (n : Nibble)          -- DRW      Dxyn  R152
  | skp (x : RegNum)                         -- SKP      Ex9E  R270
  | sknp (x : RegNum)                        -- SKNP     ExA1  R271
  | ldVDt (x : RegNum)                       -- LD_V_DT  Fx07  R272
  | ldDtV (x : RegNum)                       -- LD_DT_V  Fx15  R273
  | ldStV (x : RegNum)                       -- LD_ST_V  Fx18  R274
  | ldVK (x : RegNum)                        -- LD_V_K   Fx0A  R275
  | addI (x : RegNum)                        -- ADD_I    Fx1E  R241
  | ldF (x : RegNum)                         -- LD_F     Fx29  R242
  | ldB (x : RegNum)                         -- LD_B     Fx33  R243
  | ldMemV (x : RegNum)                      -- LD_MEM_V Fx55  R244
  | ldVMem (x : RegNum)                      -- LD_V_MEM Fx65  R245
  deriving DecidableEq, Repr

end Sys2Proof
end

