-- ==== Sys2Proof/Decode.lean ====
section
/-! DEFINITION. The decoder, total on every word and on every list of bytes (spec/30_encoding.md R90 to R102), then
the encoder, written from the same formats, and the opcode map of R101 as data. -/

namespace Sys2Proof

/-- `opcode = bits[15:12]` (R91). -/
def opcode (w : Word) : Nibble := w.extractLsb' 12 4

/-- `x = bits[11:8]` (R91). -/
def fieldX (w : Word) : RegNum := w.extractLsb' 8 4

/-- `y = bits[7:4]` (R91). -/
def fieldY (w : Word) : RegNum := w.extractLsb' 4 4

/-- `n = bits[3:0]` (R91). -/
def fieldN (w : Word) : Nibble := w.extractLsb' 0 4

/-- `kk = bits[7:0]` (R91). -/
def fieldKK (w : Word) : Byte := w.extractLsb' 0 8

/-- `nnn = bits[11:0]` (R91). -/
def fieldNNN (w : Word) : Addr12 := w.extractLsb' 0 12

/-- What a word decodes to: an instruction of R101, or an undefined encoding of R99, which R102 names `Undefined(w)`. -/
inductive Decoded where
  | instr (i : Instr)
  | undefined (w : Word)
  deriving DecidableEq, Repr

/-- Family 0 (R94): the whole word must match CLS or RET; every other word is SYS. -/
def decodeFamily0 (w : Word) : Decoded :=
  if w = 0x00E0#16 then .instr .cls
  else if w = 0x00EE#16 then .instr .ret
  else .instr (.sys (fieldNNN w))

/-- Family 5 (R95): `n` must be 0. -/
def decodeFamily5 (w : Word) : Decoded :=
  if fieldN w = 0#4 then .instr (.seReg (fieldX w) (fieldY w)) else .undefined w

/-- Family 8 (R96) sub-dispatches on `n`. -/
def decodeFamily8 (w : Word) : Decoded :=
  match (fieldN w).toNat with
  | 0x0 => .instr (.ldReg (fieldX w) (fieldY w))
  | 0x1 => .instr (.orReg (fieldX w) (fieldY w))
  | 0x2 => .instr (.andReg (fieldX w) (fieldY w))
  | 0x3 => .instr (.xorReg (fieldX w) (fieldY w))
  | 0x4 => .instr (.addReg (fieldX w) (fieldY w))
  | 0x5 => .instr (.sub (fieldX w) (fieldY w))
  | 0x6 => .instr (.shr (fieldX w) (fieldY w))
  | 0x7 => .instr (.subn (fieldX w) (fieldY w))
  | 0xE => .instr (.shl (fieldX w) (fieldY w))
  | _ => .undefined w

/-- Family 9 (R95): `n` must be 0. -/
def decodeFamily9 (w : Word) : Decoded :=
  if fieldN w = 0#4 then .instr (.sneReg (fieldX w) (fieldY w)) else .undefined w

/-- Family E (R97) sub-dispatches on `kk`. -/
def decodeFamilyE (w : Word) : Decoded :=
  match (fieldKK w).toNat with
  | 0x9E => .instr (.skp (fieldX w))
  | 0xA1 => .instr (.sknp (fieldX w))
  | _ => .undefined w

/-- Family F (R98) sub-dispatches on `kk`. -/
def decodeFamilyF (w : Word) : Decoded :=
  match (fieldKK w).toNat with
  | 0x07 => .instr (.ldVDt (fieldX w))
  | 0x0A => .instr (.ldVK (fieldX w))
  | 0x15 => .instr (.ldDtV (fieldX w))
  | 0x18 => .instr (.ldStV (fieldX w))
  | 0x1E => .instr (.addI (fieldX w))
  | 0x29 => .instr (.ldF (fieldX w))
  | 0x33 => .instr (.ldB (fieldX w))
  | 0x55 => .instr (.ldMemV (fieldX w))
  | 0x65 => .instr (.ldVMem (fieldX w))
  | _ => .undefined w

/-- Dispatch on the opcode nibble (R93); the last arm is family F, since the nibble is at most `0xF`. -/
def decode (w : Word) : Decoded :=
  match (opcode w).toNat with
  | 0x0 => decodeFamily0 w
  | 0x1 => .instr (.jp (fieldNNN w))
  | 0x2 => .instr (.call (fieldNNN w))
  | 0x3 => .instr (.seImm (fieldX w) (fieldKK w))
  | 0x4 => .instr (.sneImm (fieldX w) (fieldKK w))
  | 0x5 => decodeFamily5 w
  | 0x6 => .instr (.ldImm (fieldX w) (fieldKK w))
  | 0x7 => .instr (.addImm (fieldX w) (fieldKK w))
  | 0x8 => decodeFamily8 w
  | 0x9 => decodeFamily9 w
  | 0xA => .instr (.ldI (fieldNNN w))
  | 0xB => .instr (.jpV0 (fieldNNN w))
  | 0xC => .instr (.rnd (fieldX w) (fieldKK w))
  | 0xD => .instr (.drw (fieldX w) (fieldY w) (fieldN w))
  | 0xE => decodeFamilyE w
  | _ => decodeFamilyF w

/-- The word of two bytes, the first the more significant (R67). -/
def wordOfBytes (hi lo : Byte) : Word := hi ++ lo

/-- Why a list of bytes holds no instruction: an instruction is exactly two bytes (R90). No word is rejected (R100). -/
inductive DecodeError where
  | truncated
  deriving DecidableEq, Repr

/-- Decode the first instruction of a list of bytes and give the rest. -/
def decodeBytes (bytes : List Byte) : Except DecodeError (Decoded × List Byte) :=
  match bytes with
  | hi :: lo :: rest => .ok (decode (wordOfBytes hi lo), rest)
  | _ => .error .truncated

/-- The high byte of a word: the one at the lower address (R67). -/
def highByte (w : Word) : Byte := w.extractLsb' 8 8

/-- The low byte of a word: the one at the higher address (R67). -/
def lowByte (w : Word) : Byte := w.extractLsb' 0 8

/-- The instruction the decoder reads from the two bytes of the word whose bits are `w`. An instruction has 16 bits
(R90), so `nbits` says nothing more. An undefined encoding of R99 is no row of the table: none. -/
def decodeTableWord (_nbits w : Nat) : Option Instr :=
  match decodeBytes [highByte (BitVec.ofNat 16 w), lowByte (BitVec.ofNat 16 w)] with
  | .ok (.instr i, _) => some i
  | .ok (.undefined _, _) => none
  | .error _ => none

/-- The format `opcode nnn` (R91). -/
def wordNNN (op : Nibble) (nnn : Addr12) : Word := op ++ nnn

/-- The format `opcode x kk` (R91). -/
def wordXKK (op : Nibble) (x : RegNum) (kk : Byte) : Word := (op ++ x : BitVec 8) ++ kk

/-- The format `opcode x y n` (R91). -/
def wordXYN (op : Nibble) (x y : RegNum) (n : Nibble) : Word := (op ++ x : BitVec 8) ++ (y ++ n : BitVec 8)

/-- The word of a well-formed instruction, from the patterns of R101. -/
def encode (i : Instr) : Word :=
  match i with
  | .cls => 0x00E0#16
  | .ret => 0x00EE#16
  | .sys nnn => wordNNN 0x0#4 nnn
  | .jp nnn => wordNNN 0x1#4 nnn
  | .call nnn => wordNNN 0x2#4 nnn
  | .seImm x kk => wordXKK 0x3#4 x kk
  | .sneImm x kk => wordXKK 0x4#4 x kk
  | .seReg x y => wordXYN 0x5#4 x y 0x0#4
  | .sneReg x y => wordXYN 0x9#4 x y 0x0#4
  | .ldImm x kk => wordXKK 0x6#4 x kk
  | .addImm x kk => wordXKK 0x7#4 x kk
  | .ldReg x y => wordXYN 0x8#4 x y 0x0#4
  | .orReg x y => wordXYN 0x8#4 x y 0x1#4
  | .andReg x y => wordXYN 0x8#4 x y 0x2#4
  | .xorReg x y => wordXYN 0x8#4 x y 0x3#4
  | .addReg x y => wordXYN 0x8#4 x y 0x4#4
  | .sub x y => wordXYN 0x8#4 x y 0x5#4
  | .shr x y => wordXYN 0x8#4 x y 0x6#4
  | .subn x y => wordXYN 0x8#4 x y 0x7#4
  | .shl x y => wordXYN 0x8#4 x y 0xE#4
  | .ldI nnn => wordNNN 0xA#4 nnn
  | .jpV0 nnn => wordNNN 0xB#4 nnn
  | .rnd x kk => wordXKK 0xC#4 x kk
  | .drw x y n => wordXYN 0xD#4 x y n
  | .skp x => wordXKK 0xE#4 x 0x9E#8
  | .sknp x => wordXKK 0xE#4 x 0xA1#8
  | .ldVDt x => wordXKK 0xF#4 x 0x07#8
  | .ldDtV x => wordXKK 0xF#4 x 0x15#8
  | .ldStV x => wordXKK 0xF#4 x 0x18#8
  | .ldVK x => wordXKK 0xF#4 x 0x0A#8
  | .addI x => wordXKK 0xF#4 x 0x1E#8
  | .ldF x => wordXKK 0xF#4 x 0x29#8
  | .ldB x => wordXKK 0xF#4 x 0x33#8
  | .ldMemV x => wordXKK 0xF#4 x 0x55#8
  | .ldVMem x => wordXKK 0xF#4 x 0x65#8

/-- The two bytes of an instruction as memory stores them (R67). -/
def encodeBytes (i : Instr) : List Byte := [highByte (encode i), lowByte (encode i)]

/-- One row of the opcode map: a word belongs to it when `w AND mask = pattern`. -/
structure OpcodeRow where
  mnemonic : String
  pattern  : Word
  mask     : Word
  deriving DecidableEq, Repr

/-- The opcode map of R101 in the order it is tried: the most specific mask first. -/
def opcodeMap : List OpcodeRow :=
  [⟨"CLS", 0x00E0, 0xFFFF⟩, ⟨"RET", 0x00EE, 0xFFFF⟩] ++
  [⟨"SKP", 0xE09E, 0xF0FF⟩, ⟨"SKNP", 0xE0A1, 0xF0FF⟩, ⟨"LD_V_DT", 0xF007, 0xF0FF⟩, ⟨"LD_DT_V", 0xF015, 0xF0FF⟩,
   ⟨"LD_ST_V", 0xF018, 0xF0FF⟩, ⟨"LD_V_K", 0xF00A, 0xF0FF⟩, ⟨"ADD_I", 0xF01E, 0xF0FF⟩, ⟨"LD_F", 0xF029, 0xF0FF⟩,
   ⟨"LD_B", 0xF033, 0xF0FF⟩, ⟨"LD_MEM_V", 0xF055, 0xF0FF⟩, ⟨"LD_V_MEM", 0xF065, 0xF0FF⟩] ++
  [⟨"SE_reg", 0x5000, 0xF00F⟩, ⟨"SNE_reg", 0x9000, 0xF00F⟩, ⟨"LD_reg", 0x8000, 0xF00F⟩, ⟨"OR", 0x8001, 0xF00F⟩,
   ⟨"AND", 0x8002, 0xF00F⟩, ⟨"XOR", 0x8003, 0xF00F⟩, ⟨"ADD_reg", 0x8004, 0xF00F⟩, ⟨"SUB", 0x8005, 0xF00F⟩,
   ⟨"SHR", 0x8006, 0xF00F⟩, ⟨"SUBN", 0x8007, 0xF00F⟩, ⟨"SHL", 0x800E, 0xF00F⟩] ++
  [⟨"SYS", 0x0000, 0xF000⟩, ⟨"JP", 0x1000, 0xF000⟩, ⟨"CALL", 0x2000, 0xF000⟩, ⟨"SE_imm", 0x3000, 0xF000⟩,
   ⟨"SNE_imm", 0x4000, 0xF000⟩, ⟨"LD_imm", 0x6000, 0xF000⟩, ⟨"ADD_imm", 0x7000, 0xF000⟩, ⟨"LD_I", 0xA000, 0xF000⟩,
   ⟨"JP_V0", 0xB000, 0xF000⟩, ⟨"RND", 0xC000, 0xF000⟩, ⟨"DRW", 0xD000, 0xF000⟩]

/-- The first row of the opcode map a word belongs to; none for the undefined encodings (R101). -/
def opcodeRow (w : Word) : Option OpcodeRow :=
  opcodeMap.find? fun r => w &&& r.mask == r.pattern

/-- The name spec/opcode_table.json gives an instruction's row. -/
def Instr.mnemonic (i : Instr) : String :=
  match i with
  | .cls => "CLS"
  | .ret => "RET"
  | .sys _ => "SYS"
  | .jp _ => "JP"
  | .call _ => "CALL"
  | .seImm _ _ => "SE_imm"
  | .sneImm _ _ => "SNE_imm"
  | .seReg _ _ => "SE_reg"
  | .sneReg _ _ => "SNE_reg"
  | .ldImm _ _ => "LD_imm"
  | .addImm _ _ => "ADD_imm"
  | .ldReg _ _ => "LD_reg"
  | .orReg _ _ => "OR"
  | .andReg _ _ => "AND"
  | .xorReg _ _ => "XOR"
  | .addReg _ _ => "ADD_reg"
  | .sub _ _ => "SUB"
  | .shr _ _ => "SHR"
  | .subn _ _ => "SUBN"
  | .shl _ _ => "SHL"
  | .ldI _ => "LD_I"
  | .jpV0 _ => "JP_V0"
  | .rnd _ _ => "RND"
  | .drw _ _ _ => "DRW"
  | .skp _ => "SKP"
  | .sknp _ => "SKNP"
  | .ldVDt _ => "LD_V_DT"
  | .ldDtV _ => "LD_DT_V"
  | .ldStV _ => "LD_ST_V"
  | .ldVK _ => "LD_V_K"
  | .addI _ => "ADD_I"
  | .ldF _ => "LD_F"
  | .ldB _ => "LD_B"
  | .ldMemV _ => "LD_MEM_V"
  | .ldVMem _ => "LD_V_MEM"

end Sys2Proof
end

