-- ==== Sys2Proof/Config.lean ====
section
/-! DEFINITION. The fixed parameters (spec/00_scope.md R6), the type of the open parameters (R7) and the free
values: the draws of R8, constants with no body, so that nothing can be proved of what they are. -/

namespace Sys2Proof

/-- `MEM_SIZE` of R6: addresses `0x000`..`0xFFF`. -/
def memSize : Nat := 0x1000

/-- `PROG_BASE` of R6. -/
def progBase : Nat := 0x200

/-- `PROG_MAX` of R6: `0x1000 - 0x200` bytes. -/
def progMax : Nat := 0xE00

/-- `PC_FETCH_MAX` of R6: the highest address an instruction can be fetched from. -/
def pcFetchMax : Nat := 0xFFE

/-- `SHIFT_SOURCE` of R7: which register `8xy6` and `8xyE` shift. -/
inductive ShiftSource where
  | vx
  | vy
  deriving DecidableEq, Repr

/-- The open parameters of R7 that some rule reads. `GLYPH_ROM`'s bytes 0..4 are fixed by R63, so only the 75 bytes
of glyphs 1..F are a parameter. DESIGN CHOICE (safe): State carries them as a constant field (log 2). -/
structure Params where
  shiftSource : ShiftSource
  glyphs1toF  : Vector Byte 75
  deriving DecidableEq, Repr

/-- `RandByte()` of R8: the byte the draw of that index gives; any byte (R313). DESIGN CHOICE (safe), log 4. -/
opaque Config.randByte : Nat → Byte

/-- `KeyState()` of R8: the pressed key, or none (R311). DESIGN CHOICE (safe), log 5. -/
opaque Config.keyState : Nat → Option Key

/-- `KeyPress()` of R8: whether a press event arrives, and with which key (R310). DESIGN CHOICE (safe), log 6. -/
opaque Config.keyPress : Nat → Option Key

/-- How many ticks fall before a step: any number (R307, R320). DESIGN CHOICE (safe), log 7. -/
opaque Config.ticks : Nat → Nat

end Sys2Proof
end

