-- ==== Sys2Proof/Machine/Framebuffer.lean ====
section
/-! DEFINITION. The framebuffer controller's operations as pure functions over the pixel buffer (spec/41_display.md
R150 to R160, spec/10_state.md R30). -/

namespace Sys2Proof.Machine

/-- 32 rows of 64 pixels; true is set (spec/10_state.md R20, R30). -/
abbrev Framebuffer := Vector (Vector Bool 64) 32

/-- Every pixel false (R151). -/
def blankFramebuffer : Framebuffer := Vector.replicate 32 (Vector.replicate 64 false)

/-- `fb[row][col]`. -/
def pixel (fb : Framebuffer) (row : Fin 32) (col : Fin 64) : Bool := fb[row][col]

/-- `fb[row][col] <- b`. -/
def setPixel (fb : Framebuffer) (row : Fin 32) (col : Fin 64) (b : Bool) : Framebuffer :=
  fb.set row (fb[row].set col b)

/-- A drawing in progress: the pixels and the collision flag so far (R152 `fb`, `coll`). -/
abbrev Drawing := Framebuffer × Bool

/-- Screen column `n mod 64` (R154). -/
def screenCol (n : Nat) : Fin 64 := ⟨n % 64, Nat.mod_lt n (by decide)⟩

/-- Screen row `n mod 32` (R154). -/
def screenRow (n : Nat) : Fin 32 := ⟨n % 32, Nat.mod_lt n (by decide)⟩

/-- XOR one set sprite bit into a pixel; a set pixel that is cleared is a collision (R152, R155). -/
def togglePixel (d : Drawing) (row : Fin 32) (col : Fin 64) : Drawing :=
  (setPixel d.1 row col (!pixel d.1 row col), d.2 || pixel d.1 row col)

/-- Sprite column `c` of a row byte is bit `7 - c` (R153). DESIGN CHOICE of the spec, D12 (log 11). -/
def spriteBit (b : Byte) (c : Nat) : Bool := b.getLsbD (7 - c)

/-- Draw one sprite row: columns 0..7 in turn, at screen columns `(xs + c) mod 64` (R152, R154). -/
def drawByte (b : Byte) (xs : Nat) (row : Fin 32) (d : Drawing) : Drawing :=
  (List.range 8).foldl (fun d c => if spriteBit b c then togglePixel d row (screenCol (xs + c)) else d) d

/-- Draw the sprite rows in turn, the first at screen row `y mod 32` (R152, R154). -/
def drawRows (bytes : List Byte) (xs y : Nat) (d : Drawing) : Drawing :=
  match bytes with
  | [] => d
  | b :: rest => drawRows rest xs (y + 1) (drawByte b xs (screenRow y) d)

/-- Draw a sprite at column `xs`, row `ys`: the new pixels and whether any set pixel was cleared (R152). -/
def drawSprite (bytes : List Byte) (xs ys : Nat) (fb : Framebuffer) : Drawing :=
  drawRows bytes xs ys (fb, false)

/-- The pixels in the order `getDisplay` gives them, row-major (R159, spec/10_state.md R30). -/
def pixelList (fb : Framebuffer) : List Bool := fb.toList.flatMap fun row => row.toList

end Sys2Proof.Machine
end

