-- ==== Sys2Proof/Machine/Memory.lean ====
section
/-! DEFINITION. Memory as plain data: the bytes that differ from the reset contents, by address (spec/20_memory.md R60
to R73), and the default values of the open parameters (spec/00_scope.md R7). -/

namespace Sys2Proof.Machine

/-- The proposed default of `GLYPH_ROM` for glyphs 1..F: the table of R63. PRESUMED (unsafe): the spec takes it from
general knowledge (log 3). -/
def defaultGlyphs1toF : Vector Byte 75 :=
  #v[0x20, 0x60, 0x20, 0x20, 0x70,  0xF0, 0x10, 0xF0, 0x80, 0xF0,  0xF0, 0x10, 0xF0, 0x10, 0xF0,
     0x90, 0x90, 0xF0, 0x10, 0x10,  0xF0, 0x80, 0xF0, 0x10, 0xF0,  0xF0, 0x80, 0xF0, 0x90, 0xF0,
     0xF0, 0x10, 0x20, 0x40, 0x40,  0xF0, 0x90, 0xF0, 0x90, 0xF0,  0xF0, 0x90, 0xF0, 0x10, 0xF0,
     0xF0, 0x90, 0xF0, 0x90, 0x90,  0xE0, 0x90, 0xE0, 0x90, 0xE0,  0xF0, 0x80, 0x80, 0x80, 0xF0,
     0xE0, 0x90, 0x90, 0x90, 0xE0,  0xF0, 0x80, 0xF0, 0x80, 0xF0,  0xF0, 0x80, 0xF0, 0x80, 0x80]

/-- The defaults R7 proposes. DESIGN CHOICE (unsafe for a statement about `State.reset` alone): `SHIFT_SOURCE` = `VX`
(log 2), the standard font (log 3). -/
def defaultParams : Params := ⟨.vx, defaultGlyphs1toF⟩

/-- The glyph of digit 0, `F0 90 90 90 F0` (R63). -/
def glyph0 : Vector Byte 5 := #v[0xF0, 0x90, 0x90, 0x90, 0xF0]

/-- Memory: address and byte pairs, addresses strictly rising, none equal to what an unlisted address reads as. -/
abbrev Memory := List Host.Cell

/-- What an unlisted address reads as: the contents after construction (R61, R63, R64; spec/10_state.md R39). -/
def unlistedByte (p : Params) (a : Nat) : Byte :=
  if h0 : a < 5 then glyph0[a]
  else if h1 : a < 80 then p.glyphs1toF[a - 5]'(by omega)
  else 0#8

/-- The byte at an address. -/
def memRead (p : Params) (m : Memory) (a : Nat) : Byte :=
  match m with
  | [] => unlistedByte p a
  | (k, b) :: rest => if k = a then b else memRead p rest a

/-- Put a cell before the first cell of a higher address. -/
def memInsert (m : Memory) (a : Nat) (b : Byte) : Memory :=
  match m with
  | [] => [(a, b)]
  | (k, c) :: rest => if a < k then (a, b) :: (k, c) :: rest else (k, c) :: memInsert rest a b

/-- Drop the cells of an address. -/
def memErase (m : Memory) (a : Nat) : Memory := m.filter fun c => c.1 != a

/-- Write one byte; writing what the address would read as unlisted leaves it unlisted. -/
def memWrite (p : Params) (m : Memory) (a : Nat) (b : Byte) : Memory :=
  if b = unlistedByte p a then memErase m a else memInsert (memErase m a) a b

/-- Write bytes at rising addresses, the first at `a` (R69). -/
def memWriteBytes (p : Params) (m : Memory) (a : Nat) (bytes : List Byte) : Memory :=
  match bytes with
  | [] => m
  | b :: rest => memWriteBytes p (memWrite p m a b) (a + 1) rest

/-- The canonical form: addresses strictly rising and inside the address space, no entry equal to its unlisted byte. -/
abbrev Memory.wf (p : Params) (m : Memory) : Prop :=
  m.Pairwise (fun c d => c.1 < d.1) ∧ ∀ c ∈ m, c.1 < memSize ∧ c.2 ≠ unlistedByte p c.1

end Sys2Proof.Machine
end

