-- ==== Sys2Proof/Machine/State.lean ====
section
/-! DEFINITION. The state of the core (spec/10_state.md R20 to R39), the reasons a step can stop, and the state after
construction. -/

namespace Sys2Proof.Machine

/-- SP (spec/10_state.md R26): an integer in -1..15; `empty` is the sentinel -1, `top j` is j. DESIGN CHOICE (safe),
log 8. -/
inductive StackPtr where
  | empty
  | top (slot : Fin 16)
  deriving DecidableEq, Repr

/-- The mode (spec/10_state.md R32). -/
inductive Mode where
  | running
  | waitKey (x : RegNum)
  deriving DecidableEq, Repr

/-- The fault codes that are latched (spec/60_exceptions.md R301), each with what R302 records. -/
inductive StepFault where
  /-- `E_PC_OOB`: `step` with PC above `0xFFE`; records PC. -/
  | pcOob (pc : Word)
  /-- `E_MEM_OOB`: a data address at or above `0x1000`; records the lowest one the instruction would access. -/
  | memOob (addr : Nat)
  /-- `E_STACK_OVERFLOW`: a call with SP = 15; records the instruction's address. -/
  | stackOverflow (instrAddr : Word)
  /-- `E_STACK_UNDERFLOW`: a return with SP = -1; records the instruction's address. -/
  | stackUnderflow (instrAddr : Word)
  deriving DecidableEq, Repr

/-- Why a call of the core fails (spec/60_exceptions.md R301) with the state unchanged. A step that RAISES a latched
fault is no stop: it gives a next state that holds the latch (log 1). -/
inductive Fault where
  /-- `E_DISPOSED`: raised by a step on a disposed machine, at the entry check (R120). Safe: the spec's own failure. -/
  | disposed
  /-- A latched code again: raised by every step after the one that latched it (R33, R120). Safe: the spec's own
  failure. -/
  | latched (f : StepFault)
  /-- `E_LOAD_TOO_LARGE`: raised by `loadProgram` of more than `0xE00` bytes (R352); no step raises it. Safe. -/
  | loadTooLarge (length : Nat)
  deriving DecidableEq, Repr

/-- Calls the model gives no move to. -/
inductive Refusal where
  /-- An instruction without a meaning, by its mnemonic. Raised by no arm of this model. Safe. -/
  | notModelled (mnemonic : String)
  /-- A second `step` call while one is pending: a host duty (R120 item 3, R314). Raised by the host event `step`,
  never by the machine's own step. Safe: the spec's model has no step there (log 17). -/
  | stepWhilePending
  /-- `loadProgram` after the first step: a host duty (R314). Raised by the host event `loadProgram`. Safe (log 17). -/
  | loadAfterFirstStep
  /-- `loadProgram` after `dispose()`: memory is never written again (R315). Raised by the host event. Safe (log 17). -/
  | loadAfterDispose
  deriving DecidableEq, Repr

/-- The state of R20, then the parameters (log 2), then the model's own fields. The ticker is active exactly when
`disposed` is false (R34), so it has no field. -/
structure State where
  mem      : Memory               -- R60
  v        : Vector Byte 16       -- R21
  i        : Word                 -- R24
  pc       : Word                 -- R25
  sp       : StackPtr             -- R26
  stack    : Vector Word 16       -- R27
  dt       : Byte                 -- R28
  st       : Byte                 -- R29
  fb       : Framebuffer          -- R30
  disposed : Bool                 -- R31
  mode     : Mode                 -- R32
  fault    : Option StepFault     -- R33
  params   : Params               -- R7: SHIFT_SOURCE and GLYPH_ROM, never changed (log 2)
  draws    : Nat                  -- the model's own: the index of the next draw of R8 (log 4)
  stepped  : Bool                 -- the model's own: `step` has been called, for the duty of R314 (log 17)
  deriving DecidableEq, Repr

/-- The state after construction (spec/10_state.md R39, spec/70_reset_and_hazards.md R350): memory lists nothing, so it
reads as the glyphs and zeros. The parameters are R7's defaults (log 2, 3). -/
def State.reset : State where
  mem := []
  v := Vector.replicate 16 0#8
  i := 0#16
  pc := 0x200#16
  sp := .empty
  stack := Vector.replicate 16 0#16
  dt := 0#8
  st := 0#8
  fb := blankFramebuffer
  disposed := false
  mode := .running
  fault := none
  params := defaultParams
  draws := 0
  stepped := false

end Sys2Proof.Machine
end

