-- ==== Sys2Proof/Machine/Ops.lean ====
section
/-! DEFINITION. The named operations over the state: one update per field, registers, memory, the stack, raising a
fault, the timers, the draws. -/

namespace Sys2Proof.Machine

/-- The outcome of a step or of an instruction. -/
abbrev Result := Host.Outcome State Fault Refusal

/-! One update per field. -/

def State.setMem (s : State) (m : Memory) : State := { s with mem := m }
def State.setRegs (s : State) (v : Vector Byte 16) : State := { s with v := v }
def State.setI (s : State) (a : Word) : State := { s with i := a }
def State.setPc (s : State) (a : Word) : State := { s with pc := a }
def State.setSp (s : State) (p : StackPtr) : State := { s with sp := p }
def State.setStack (s : State) (k : Vector Word 16) : State := { s with stack := k }
def State.setDt (s : State) (b : Byte) : State := { s with dt := b }
def State.setSt (s : State) (b : Byte) : State := { s with st := b }
def State.setFb (s : State) (f : Framebuffer) : State := { s with fb := f }
def State.setDisposed (s : State) : State := { s with disposed := true }
def State.setMode (s : State) (m : Mode) : State := { s with mode := m }
def State.latch (s : State) (f : StepFault) : State := { s with fault := some f }
def State.setStepped (s : State) : State := { s with stepped := true }

/-- One draw of R8 has been taken: the next one has the next index. -/
def State.countDraw (s : State) : State := { s with draws := s.draws + 1 }

/-! General registers (R10, R21): none is hardwired. -/

/-- `V[x]`. -/
def State.reg (s : State) (x : RegNum) : Byte := s.v[x.toNat]'(x.isLt)

/-- `V[x] <- b`. -/
def State.setReg (s : State) (x : RegNum) (b : Byte) : State := s.setRegs (s.v.set x.toNat b x.isLt)

/-- VF, the register some instructions also write as a flag (R22). -/
def regF : RegNum := 0xF#4

/-! Memory (R66). Callers check the addresses first, with `oobAddress`. -/

/-- `MemRead(a, 1)` for an address inside memory. -/
def State.byteAt (s : State) (a : Nat) : Byte := memRead s.params s.mem a

/-- `MemWrite(a, 1, b)` for an address inside memory. -/
def State.writeByte (s : State) (a : Nat) (b : Byte) : State := s.setMem (memWrite s.params s.mem a b)

/-- `n` bytes from `a` upward. -/
def State.readBytes (s : State) (a n : Nat) : List Byte := (List.range n).map fun k => s.byteAt (a + k)

/-- Bytes to `a` upward, in ascending order (R69). -/
def State.writeBytes (s : State) (a : Nat) (bytes : List Byte) : State :=
  s.setMem (memWriteBytes s.params s.mem a bytes)

/-- The lowest address at or above `0x1000` among the `n` addresses from `a` upward, if there is one (R66, R302). -/
def oobAddress (a n : Nat) : Option Nat :=
  if n = 0 ∨ a + n ≤ memSize then none else some (max a memSize)

/-- `Fetch16(PC)` (R67, R122). -/
def State.fetch16 (s : State) : Word := wordOfBytes (s.byteAt s.pc.toNat) (s.byteAt (s.pc.toNat + 1))

/-! The program counter (R124, R130). -/

/-- `PC <- (PC + 2) mod 2^16`, before the instruction runs. -/
def State.advance (s : State) : State := s.setPc (s.pc + 2#16)

/-- Skip the next instruction if `c`. -/
def State.skipIf (s : State) (c : Bool) : State := s.setPc (if c then s.pc + 2#16 else s.pc)

/-! The return stack (R26, R27). -/

/-- SP as the integer of R26. -/
def StackPtr.toInt (p : StackPtr) : Int :=
  match p with
  | .empty => -1
  | .top j => j.val

/-- The slot `SP + 1`; none when SP = 15. -/
def StackPtr.nextSlot (p : StackPtr) : Option (Fin 16) :=
  match p with
  | .empty => some 0
  | .top j => if h : j.val + 1 < 16 then some ⟨j.val + 1, h⟩ else none

/-- `SP - 1` when SP is the slot `j`. -/
def StackPtr.below (j : Fin 16) : StackPtr :=
  if j = 0 then .empty else .top (j - 1)

/-- `SP <- j; stack[SP] <- a`. -/
def State.push (s : State) (j : Fin 16) (a : Word) : State := (s.setSp (.top j)).setStack (s.stack.set j a)

/-! Raising a fault: the one exception mechanism of this core (R128, R300, R301). -/

/-- `raise f`: the step ends as a failure that leaves the state with the latch set. There is no handler and no saved
register (R300), so that state is what the failing step leaves: a next state (log 1). -/
def raise (f : StepFault) (s : State) : Result := .next (s.latch f)

/-- The address of the instruction that is executing: PC - 2 after the advance (R302). -/
def State.instrAddr (s : State) : Word := s.pc - 2#16

/-! The timers (R306). -/

/-- One decrement, floored at zero. -/
def tickTimer (b : Byte) : Byte := if b = 0#8 then 0#8 else b - 1#8

/-- `tick()`: both timers together, only while not disposed. -/
def State.tick (s : State) : State :=
  if s.disposed then s else (s.setDt (tickTimer s.dt)).setSt (tickTimer s.st)

/-- `n` decrements at once. -/
def decay (b : Byte) (n : Nat) : Byte := if b = 0#8 then 0#8 else BitVec.ofNat 8 (b.toNat - n)

/-- `n` ticks at once. -/
def State.tickMany (s : State) (n : Nat) : State :=
  if s.disposed then s else (s.setDt (decay s.dt n)).setSt (decay s.st n)

/-- The ticks that fall before a step: any number (R8, R307, R320). A free value (log 7). -/
def State.passTicks (s : State) : State := (s.tickMany (Config.ticks s.draws)).countDraw

/-! The keyboard (R310). -/

/-- A press event with key `k`: it resolves a pending `Fx0A` and has no other effect (R275 part 2, R310). -/
def State.press (s : State) (k : Key) : State :=
  match s.mode with
  | .running => s
  | .waitKey x => if s.disposed then s else (s.setReg x (k.setWidth 8)).setMode .running

end Sys2Proof.Machine
end

