-- ==== Sys2Proof/Machine/Flags.lean ====
section
/-! DEFINITION. The flag computations (spec/43_alu.md R200, R207 to R214): each gives the 8-bit result and the flag. -/

namespace Sys2Proof.Machine

/-- A flag as VF holds it: 1 or 0. -/
def flagByte (f : Bool) : Byte := if f then 1#8 else 0#8

/-- `8xy4` (R207): the sum mod 256, and the carry out of bit 7. -/
def addCarry (a b : Byte) : Byte × Bool :=
  (BitVec.ofNat 8 (a.toNat + b.toNat), decide (255 < a.toNat + b.toNat))

/-- `a - b` mod 256, and whether no borrow occurs (R208, R210; equal operands borrow nothing: D11, log 10). -/
def subNoBorrow (a b : Byte) : Byte × Bool := (a - b, decide (b.toNat ≤ a.toNat))

/-- `8xy6` (R209): shift right by one, and bit 0 of the shifted value. -/
def shiftRight (b : Byte) : Byte × Bool := (b >>> 1, b.getLsbD 0)

/-- `8xyE` (R211): shift left by one, and bit 7 of the shifted value. -/
def shiftLeft (b : Byte) : Byte × Bool := (b <<< 1, b.getLsbD 7)

/-- The result to `V[x]`, then the flag to VF, which it therefore holds even when `x` = F (R200; D10, log 10). -/
def State.setRegFlag (s : State) (x : RegNum) (r : Byte × Bool) : State :=
  (s.setReg x r.1).setReg regF (flagByte r.2)

end Sys2Proof.Machine
end

