-- ==== Sys2Proof/Machine/Operands.lean ====
section
/-! DEFINITION. The operand forms: zero-extended fields and the computed operands (spec/30_encoding.md R92), the shifted
register (spec/00_scope.md R7), decimal digits and register blocks. -/

namespace Sys2Proof.Machine

/-- `zext_16(nnn)`. -/
def zextAddr (nnn : Addr12) : Word := nnn.setWidth 16

/-- `zext_16(V[x])`. -/
def zextByte (b : Byte) : Word := b.setWidth 16

/-- The value `8xy6` and `8xyE` shift (R209, R211): `V[x]` or `V[y]`, by the parameter `SHIFT_SOURCE`. -/
def State.shiftOperand (s : State) (x y : RegNum) : Byte :=
  match s.params.shiftSource with
  | .vx => s.reg x
  | .vy => s.reg y

/-- The target of `Bnnn` (R177): 16 bits wide, not cut to 12. -/
def State.v0Target (s : State) (nnn : Addr12) : Word := zextAddr nnn + zextByte (s.reg 0#4)

/-- The address of a digit glyph (R62, R242): five times the value, never masked. -/
def glyphAddr (b : Byte) : Word := zextByte b * 5#16

/-- Hundreds, tens and ones (R243). -/
def bcdDigits (b : Byte) : List Byte :=
  [BitVec.ofNat 8 (b.toNat / 100), BitVec.ofNat 8 (b.toNat / 10 % 10), BitVec.ofNat 8 (b.toNat % 10)]

/-- `V0..Vx`, `x` included (R244). -/
def State.regsUpTo (s : State) (x : RegNum) : List Byte := s.v.toList.take (x.toNat + 1)

/-- `V[k] <- mem[a + k]` for `k` in 0..x (R245). -/
def State.loadRegs (s : State) (x : RegNum) (a : Nat) : State :=
  s.setRegs (Vector.ofFn fun k : Fin 16 => if k.val ≤ x.toNat then s.byteAt (a + k.val) else s.v[k])

/-- The key drawn by `Ex9E`/`ExA1` equals a register's value; no key equals nothing (R270, R271). -/
def keyMatches (k : Option Key) (b : Byte) : Bool :=
  match k with
  | none => false
  | some c => c.setWidth 8 == b

end Sys2Proof.Machine
end

