-- ==== Sys2Proof/Machine/Alu.lean ====
section
/-! DEFINITION. Register loads and arithmetic (spec/43_alu.md R201 to R212). -/

namespace Sys2Proof.Machine

/-- `LD Vx, kk` (R201). -/
def execLdImm (x : RegNum) (kk : Byte) (s : State) : Result := .next (s.setReg x kk)

/-- `ADD Vx, kk` (R202): no flag. -/
def execAddImm (x : RegNum) (kk : Byte) (s : State) : Result := .next (s.setReg x (s.reg x + kk))

/-- `LD Vx, Vy` (R203). -/
def execLdReg (x y : RegNum) (s : State) : Result := .next (s.setReg x (s.reg y))

/-- `OR Vx, Vy` (R204): VF is not reset. -/
def execOrReg (x y : RegNum) (s : State) : Result := .next (s.setReg x (s.reg x ||| s.reg y))

/-- `AND Vx, Vy` (R205). -/
def execAndReg (x y : RegNum) (s : State) : Result := .next (s.setReg x (s.reg x &&& s.reg y))

/-- `XOR Vx, Vy` (R206). -/
def execXorReg (x y : RegNum) (s : State) : Result := .next (s.setReg x (s.reg x ^^^ s.reg y))

/-- `ADD Vx, Vy` (R207). -/
def execAddReg (x y : RegNum) (s : State) : Result := .next (s.setRegFlag x (addCarry (s.reg x) (s.reg y)))

/-- `SUB Vx, Vy` (R208): `Vx - Vy`. -/
def execSub (x y : RegNum) (s : State) : Result := .next (s.setRegFlag x (subNoBorrow (s.reg x) (s.reg y)))

/-- `SHR Vx, Vy` (R209). -/
def execShr (x y : RegNum) (s : State) : Result := .next (s.setRegFlag x (shiftRight (s.shiftOperand x y)))

/-- `SUBN Vx, Vy` (R210): `Vy - Vx`. -/
def execSubn (x y : RegNum) (s : State) : Result := .next (s.setRegFlag x (subNoBorrow (s.reg y) (s.reg x)))

/-- `SHL Vx, Vy` (R211). -/
def execShl (x y : RegNum) (s : State) : Result := .next (s.setRegFlag x (shiftLeft (s.shiftOperand x y)))

/-- `RND Vx, kk` (R212) with the byte drawn. -/
def State.rndWith (s : State) (r : Byte) (x : RegNum) (kk : Byte) : State := s.setReg x (r &&& kk)

/-- `RND Vx, kk` (R212): the byte is a free value (log 4). -/
def execRnd (x : RegNum) (kk : Byte) (s : State) : Result :=
  .next (s.countDraw.rndWith (Config.randByte s.draws) x kk)

end Sys2Proof.Machine
end

