-- ==== Sys2Proof/Machine/Display.lean ====
section
/-! DEFINITION. The framebuffer instructions (spec/41_display.md R151, R152). -/

namespace Sys2Proof.Machine

/-- `CLS` (R151). -/
def execCls (s : State) : Result := .next (s.setFb blankFramebuffer)

/-- The sprite `Dxyn` draws, from the operands read before any write (R152, R157). -/
def State.sprite (s : State) (x y : RegNum) (n : Nibble) : Drawing :=
  drawSprite (s.readBytes s.i.toNat n.toNat) (s.reg x).toNat (s.reg y).toNat s.fb

/-- `DRW Vx, Vy, n` (R152): all sprite addresses checked first (R158), VF written last (R157). -/
def execDrw (x y : RegNum) (n : Nibble) (s : State) : Result :=
  match oobAddress s.i.toNat n.toNat with
  | some a => raise (.memOob a) s
  | none => .next ((s.setFb (s.sprite x y n).1).setReg regF (flagByte (s.sprite x y n).2))

end Sys2Proof.Machine
end

