-- ==== Sys2Proof/Machine/Flow.lean ====
section
/-! DEFINITION. No-ops and control flow (spec/40_step_cycle.md R126, R127, spec/42_control_flow.md R170 to R177). PC is
already the address of the instruction plus 2 (R11, R124). -/

namespace Sys2Proof.Machine

/-- An undefined encoding (R126): a no-op. -/
def execUndefined (_w : Word) (s : State) : Result := .next s

/-- `SYS nnn` (R127): a no-op. -/
def execSys (_nnn : Addr12) (s : State) : Result := .next s

/-- `RET` (R170). The slot read is not cleared. -/
def execRet (s : State) : Result :=
  match s.sp with
  | .empty => raise (.stackUnderflow s.instrAddr) s
  | .top j => .next ((s.setPc s.stack[j]).setSp (StackPtr.below j))

/-- `JP nnn` (R171). -/
def execJp (nnn : Addr12) (s : State) : Result := .next (s.setPc (zextAddr nnn))

/-- `CALL nnn` (R172): the return address pushed is the advanced PC. -/
def execCall (nnn : Addr12) (s : State) : Result :=
  match s.sp.nextSlot with
  | none => raise (.stackOverflow s.instrAddr) s
  | some j => .next ((s.push j s.pc).setPc (zextAddr nnn))

/-- `SE Vx, kk` (R173). -/
def execSeImm (x : RegNum) (kk : Byte) (s : State) : Result := .next (s.skipIf (s.reg x == kk))

/-- `SNE Vx, kk` (R174). -/
def execSneImm (x : RegNum) (kk : Byte) (s : State) : Result := .next (s.skipIf (s.reg x != kk))

/-- `SE Vx, Vy` (R175). -/
def execSeReg (x y : RegNum) (s : State) : Result := .next (s.skipIf (s.reg x == s.reg y))

/-- `SNE Vx, Vy` (R176). -/
def execSneReg (x y : RegNum) (s : State) : Result := .next (s.skipIf (s.reg x != s.reg y))

/-- `JP V0, nnn` (R177). -/
def execJpV0 (nnn : Addr12) (s : State) : Result := .next (s.setPc (s.v0Target nnn))

end Sys2Proof.Machine
end

