-- ==== Sys2Proof/Machine/Index.lean ====
section
/-! DEFINITION. The index register and the memory transfers (spec/44_index_memory.md R240 to R247). No transfer changes I
(R247; D22, log 13). -/

namespace Sys2Proof.Machine

/-- `LD I, nnn` (R240). -/
def execLdI (nnn : Addr12) (s : State) : Result := .next (s.setI (zextAddr nnn))

/-- `ADD I, Vx` (R241): 16 bits, no flag. -/
def execAddI (x : RegNum) (s : State) : Result := .next (s.setI (s.i + zextByte (s.reg x)))

/-- `LD F, Vx` (R242). -/
def execLdF (x : RegNum) (s : State) : Result := .next (s.setI (glyphAddr (s.reg x)))

/-- `LD B, Vx` (R243). -/
def execLdB (x : RegNum) (s : State) : Result :=
  match oobAddress s.i.toNat 3 with
  | some a => raise (.memOob a) s
  | none => .next (s.writeBytes s.i.toNat (bcdDigits (s.reg x)))

/-- `LD [I], Vx` (R244). -/
def execLdMemV (x : RegNum) (s : State) : Result :=
  match oobAddress s.i.toNat (x.toNat + 1) with
  | some a => raise (.memOob a) s
  | none => .next (s.writeBytes s.i.toNat (s.regsUpTo x))

/-- `LD Vx, [I]` (R245). -/
def execLdVMem (x : RegNum) (s : State) : Result :=
  match oobAddress s.i.toNat (x.toNat + 1) with
  | some a => raise (.memOob a) s
  | none => .next (s.loadRegs x s.i.toNat)

end Sys2Proof.Machine
end

