-- ==== Sys2Proof/Machine/TimersKeys.lean ====
section
/-! DEFINITION. The timer and keyboard instructions (spec/45_timers_keys.md R270 to R276). -/

namespace Sys2Proof.Machine

/-- `SKP Vx` (R270) with the key state drawn. -/
def State.skpWith (s : State) (k : Option Key) (x : RegNum) : State := s.skipIf (keyMatches k (s.reg x))

/-- `SKP Vx` (R270): the key state is a free value (log 5). -/
def execSkp (x : RegNum) (s : State) : Result := .next (s.countDraw.skpWith (Config.keyState s.draws) x)

/-- `SKNP Vx` (R271) with the key state drawn. -/
def State.sknpWith (s : State) (k : Option Key) (x : RegNum) : State := s.skipIf (!keyMatches k (s.reg x))

/-- `SKNP Vx` (R271): the key state is a free value (log 5). -/
def execSknp (x : RegNum) (s : State) : Result := .next (s.countDraw.sknpWith (Config.keyState s.draws) x)

/-- `LD Vx, DT` (R272). -/
def execLdVDt (x : RegNum) (s : State) : Result := .next (s.setReg x s.dt)

/-- `LD DT, Vx` (R273). -/
def execLdDtV (x : RegNum) (s : State) : Result := .next (s.setDt (s.reg x))

/-- `LD ST, Vx` (R274). -/
def execLdStV (x : RegNum) (s : State) : Result := .next (s.setSt (s.reg x))

/-- `LD Vx, K` (R275 part 1): the step is suspended; a later press resolves it (`State.press`). -/
def execLdVK (x : RegNum) (s : State) : Result := .next (s.setMode (.waitKey x))

end Sys2Proof.Machine
end

