-- ==== Sys2Proof/Machine/Cycle.lean ====
section
/-! DEFINITION. The step cycle (spec/40_step_cycle.md R120 to R129): entry checks, fetch, decode, advance, execute, and
the wait of `Fx0A`. -/

namespace Sys2Proof.Machine

/-- The first two entry checks of R120, in their order (R305): disposed, then the latch. -/
def State.entryFault (s : State) : Option Fault :=
  if s.disposed then some .disposed else s.fault.map .latched

/-- What a decoded word does (R125, R126). -/
def execDecoded (d : Decoded) (s : State) : Result :=
  match d with
  | .instr i => exec i s
  | .undefined w => execUndefined w s

/-- The PC bound check, then fetch, decode, advance and execute (R121 to R125). -/
def cycle (s : State) : Result :=
  if pcFetchMax < s.pc.toNat then raise (.pcOob s.pc) s
  else execDecoded (decode s.fetch16) s.advance

/-- The host's call of `step()` (R120, R125): the entry checks in their order, then one instruction. A call while a step
is pending has no move: it is the host's duty never to make it (R120 item 3, R314; log 17). -/
def State.hostCall (s : State) : Result :=
  match s.entryFault with
  | some f => .fault f
  | none =>
    match s.mode with
    | .running => cycle s.setStepped
    | .waitKey _ => .refused .stepWhilePending

/-- A step is pending: the machine is in WaitKey and neither disposed nor faulted (R32). -/
def State.waiting (s : State) : Bool :=
  match s.entryFault, s.mode with
  | none, .waitKey _ => true
  | _, _ => false

/-- The wait of a pending `Fx0A`, with what the keyboard delivers: nothing, and the wait goes on, or a press (R275). -/
def State.awaitWith (s : State) (k : Option Key) : State :=
  match k with
  | none => s
  | some c => s.press c

/-- One step of the machine, after any number of ticks (R320; log 7). In WaitKey the pending step goes on, and whether a
press arrives is a free value (log 6); otherwise the host calls `step()`. -/
def machineStep (s : State) : Result :=
  let t := s.passTicks
  if t.waiting then .next (t.countDraw.awaitWith (Config.keyPress t.draws)) else t.hostCall

/-- Store the bits of an instruction where the next step fetches it: at PC, the high byte first (R67, R122). -/
def State.placeWord (s : State) (w : Word) : State := s.writeBytes s.pc.toNat [highByte w, lowByte w]

end Sys2Proof.Machine
end

