-- ==== Sys2Proof/Machine/Step.lean ====
section
/-! DEFINITION. The machine's step, and placing an instruction where the step fetches it. -/

namespace Sys2Proof.Machine

/-- One step of the machine (R120 to R129, R320). -/
def step : State → Host.Outcome State Fault Refusal := machineStep

/-- The state with the instruction whose bits are `w` stored at PC. An instruction is one 16-bit word (R90). It stands
for the load of a program from outside the machine (R351, R353; log 18). -/
def State.withFetchWord (s : State) (_nbits w : Nat) : State := s.placeWord (BitVec.ofNat 16 w)

end Sys2Proof.Machine
end

