-- ==== Sys2Proof/Machine/Events.lean ====
section
/-! DEFINITION. The events of R320 and the host interface of R314: one atomic effect per event, so that every
interleaving of the core, the ticker, the keyboard and the host is a list of events. -/

namespace Sys2Proof.Machine

/-- The events of the four agents. `call` is the host's `step()`, with no ticks of its own, since each
tick is an event. -/
inductive Event where
  | call
  | tick
  | press (k : Key)
  | loadProgram (bytes : List Byte)
  | getDisplay
  | dispose
  deriving DecidableEq, Repr

/-- `loadProgram(bytes)` (R351, R352), under the host's duties (R314, R315; log 17). -/
def State.load (s : State) (bytes : List Byte) : Result :=
  if s.disposed then .refused .loadAfterDispose
  else if s.stepped then .refused .loadAfterFirstStep
  else if progMax < bytes.length then .fault (.loadTooLarge bytes.length)
  else .next (s.writeBytes progBase bytes)

/-- `dispose()` (R315, R316): it ends a pending wait without writing the register; a second call changes nothing.
That the mode is then `running` is DEDUCED from R32 and R319 (log 16). -/
def State.dispose (s : State) : State :=
  if s.disposed then s else s.setDisposed.setMode .running

/-- `getDisplay()` (R159): the 2048 pixels, row-major. It changes no state. -/
def State.getDisplay (s : State) : List Bool := pixelList s.fb

/-- The effect of one event. -/
def react (e : Event) (s : State) : Result :=
  match e with
  | .call => s.hostCall
  | .tick => .next s.tick
  | .press k => .next (s.press k)
  | .loadProgram bytes => s.load bytes
  | .getDisplay => .next s
  | .dispose => .next s.dispose

/-- The state an event leaves. A call that fails at its entry (`E_DISPOSED`, a fault latched before) or by `E_LOAD_TOO_LARGE` changes no state (R120,
R352) and is no end: the other agents and the host go on (R309, R320). None where the event has no move: a host duty
(R314). -/
def State.afterEvent (s : State) (e : Event) : Option State :=
  match react e s with
  | .next t => some t
  | .fault _ => some s
  | .refused _ => none

/-- Events one at a time, in the order of the list (R320): the state they leave; none where one of them has no move. -/
def runEvents (es : List Event) (s : State) : Option State :=
  match es with
  | [] => some s
  | e :: rest => (s.afterEvent e).bind (runEvents rest)

/-- What a call returns to the host (R129): done, suspended, or failed with a code and its info (R302). -/
inductive Reply where
  | ok
  | pending
  | fail (f : Fault)
  deriving DecidableEq, Repr

/-- The reply of a `step()` call, read off its outcome; none for a call that has no move. -/
def replyOf (r : Result) : Option Reply :=
  match r with
  | .next t =>
    match t.fault with
    | some f => some (.fail (.latched f))
    | none =>
      match t.mode with
      | .running => some .ok
      | .waitKey _ => some .pending
  | .fault f => some (.fail f)
  | .refused _ => none

/-- The reply a pending step gets when `dispose()` is called (R316): `E_DISPOSED`; none when no step is pending. -/
def State.disposeReply (s : State) : Option Reply :=
  if s.disposed then none
  else
    match s.mode with
    | .running => none
    | .waitKey _ => some (.fail .disposed)

/-- The code numbers of R301. -/
def StepFault.number (f : StepFault) : Nat :=
  match f with
  | .pcOob _ => 2
  | .memOob _ => 3
  | .stackOverflow _ => 4
  | .stackUnderflow _ => 5

/-- The code numbers of R301. -/
def Fault.number (f : Fault) : Nat :=
  match f with
  | .disposed => 1
  | .latched g => g.number
  | .loadTooLarge _ => 6

end Sys2Proof.Machine
end

