-- ==== Sys2Proof/Safety.lean ====
section
/-! DEFINITION. What counts as a safe state and a safe run, in the terms statements use. -/

namespace Sys2Proof.Machine

/-- Nothing blocks the next instruction: not disposed, no fault latched, no step pending (R120). -/
def State.Ready (s : State) : Prop := s.disposed = false ∧ s.fault = none ∧ s.mode = .running

/-- Ready, and PC passes the bound check (R121): the next step fetches an instruction. -/
def State.CanFetch (s : State) : Prop := s.Ready ∧ s.pc.toNat ≤ pcFetchMax

/-- A run has ended by the program's own sign (R360): a jump to itself at PC, the machine ready. -/
def State.AtSelfJump (s : State) : Prop :=
  s.CanFetch ∧ ∃ nnn, decode s.fetch16 = .instr (.jp nnn) ∧ zextAddr nnn = s.pc

/-- `stack[j]` is live: at or below SP (R26). -/
def State.LiveSlot (s : State) (j : Fin 16) : Prop := (j.val : Int) ≤ s.sp.toInt

/-- What every step and every event keeps. Memory keeps its canonical form; every live return address is one a call can
push, at most `0x1000`, and PC is at most `0x10FE`, so PC never wraps (R133); a disposed machine waits for nothing
(R316, log 16). -/
structure State.Inv (s : State) : Prop where
  memory   : Memory.wf s.params s.mem
  pcBound  : s.pc.toNat ≤ 0x10FE
  returns  : ∀ j : Fin 16, s.LiveSlot j → s.stack[j].toNat ≤ 0x1000
  disposal : s.disposed = true → s.mode = .running

/-- A safe run of `k` steps: it neither stops nor latches a fault. -/
def SafeRun (k : Nat) (s : State) : Prop :=
  match k with
  | 0 => s.fault = none
  | n + 1 => s.fault = none ∧ ∃ t, step s = .next t ∧ SafeRun n t

end Sys2Proof.Machine
end

