-- ==== Sys2Proof/Certificates/Slice0/Obligations.lean ====
section
/-! DEFINITION. The statements for the provers. In a statement about `exec`, PC is already the address of the instruction
plus 2 (spec/00_scope.md R11, spec/40_step_cycle.md R124). A clause that rests on a free value names the `Config`
constant and holds for every value of it. -/

namespace Sys2Proof.Spec

open Sys2Proof.Machine

/-- What an instruction or event may change. Everything not named here is unchanged. -/
structure Footprint where
  regs    : List RegNum := []
  bytes   : List Nat := []
  i       : Bool := false
  pc      : Bool := false
  stack   : Bool := false
  dt      : Bool := false
  st      : Bool := false
  fb      : Bool := false
  mode    : Bool := false
  fault   : Bool := false
  draws   : Bool := false
  stepped : Bool := false

/-- The frame: `t` is `s` outside the footprint, register by register and byte by byte. -/
structure Untouched (p : Footprint) (s t : State) : Prop where
  regs     : ∀ z, z ∉ p.regs → t.reg z = s.reg z
  bytes    : ∀ a, a ∉ p.bytes → t.byteAt a = s.byteAt a
  i        : p.i = false → t.i = s.i
  pc       : p.pc = false → t.pc = s.pc
  stack    : p.stack = false → t.sp = s.sp ∧ t.stack = s.stack
  dt       : p.dt = false → t.dt = s.dt
  st       : p.st = false → t.st = s.st
  fb       : p.fb = false → t.fb = s.fb
  disposed : t.disposed = s.disposed
  mode     : p.mode = false → t.mode = s.mode
  fault    : p.fault = false → t.fault = s.fault
  params   : t.params = s.params
  draws    : p.draws = false → t.draws = s.draws
  stepped  : p.stepped = false → t.stepped = s.stepped

/-- Every word that matches `pattern` under `mask` decodes to the instruction `f` cuts from it. -/
def EncodedBy (mask pattern : Word) (f : Word → Instr) : Prop :=
  ∀ w : Word, w &&& mask = pattern → decode w = .instr (f w)

/-- The addresses of `n` bytes from `a` upward. -/
def addresses (a n : Nat) : List Nat := (List.range n).map (a + ·)

/-- The registers `V0`..`Vx`. -/
def regsTo (x : RegNum) : List RegNum := (List.range (x.toNat + 1)).map (BitVec.ofNat 4)

/-- The value `8xy6` and `8xyE` shift, by the parameter (R7). -/
def shifted (s : State) (x y : RegNum) : Byte :=
  match s.params.shiftSource with
  | .vx => s.reg x
  | .vy => s.reg y

/-- A set bit of the sprite of `Dxyn` lands on the pixel at row `r`, column `c` (R152 to R154). -/
def SpriteBitAt (s : State) (x y : RegNum) (n : Nibble) (r : Fin 32) (c : Fin 64) : Prop :=
  ∃ j k : Nat, j < n.toNat ∧ k < 8 ∧ (s.byteAt (s.i.toNat + j)).getLsbD (7 - k) = true ∧
    r.val = ((s.reg y).toNat + j) % 32 ∧ c.val = ((s.reg x).toNat + k) % 64

/-- All sprite addresses of `Dxyn` are inside memory (R158). -/
def SpriteInside (s : State) (n : Nibble) : Prop := n.toNat = 0 ∨ s.i.toNat + n.toNat ≤ 0x1000

/-- A key state names the key whose number a register holds (R270, R271). -/
def NamesKey (k : Option Key) (b : Byte) : Prop := ∃ c, k = some c ∧ c.toNat = b.toNat

/-- The general registers `exec` of an instruction may write: the table of spec/10_state.md R23, but for `Fx0A`. `exec` of
`Fx0A` is part 1 of R275 only, which writes no register; the press (part 2) writes `V[x]`. -/
def writtenRegs (i : Instr) : List RegNum :=
  match i with
  | .ldImm x _ | .addImm x _ | .rnd x _ => [x]
  | .ldReg x _ | .orReg x _ | .andReg x _ | .xorReg x _ => [x]
  | .addReg x _ | .sub x _ | .shr x _ | .subn x _ | .shl x _ => [x, regF]
  | .ldVDt x => [x]
  | .ldVMem x => regsTo x
  | .drw _ _ _ => [regF]
  | .cls | .ret | .sys _ | .jp _ | .call _ | .seImm _ _ | .sneImm _ _ | .seReg _ _ | .sneReg _ _ => []
  | .ldI _ | .jpV0 _ | .skp _ | .sknp _ | .ldDtV _ | .ldStV _ | .ldVK _ | .addI _ | .ldF _ | .ldB _ | .ldMemV _ => []

/-- The undefined encodings, as R99 lists them. -/
def UndefinedWord (w : Word) : Prop :=
  ((opcode w).toNat ∈ [0x5, 0x9] ∧ (fieldN w).toNat ≠ 0) ∨
  ((opcode w).toNat = 0x8 ∧ (fieldN w).toNat ∈ [0x8, 0x9, 0xA, 0xB, 0xC, 0xD, 0xF]) ∨
  ((opcode w).toNat = 0xE ∧ (fieldKK w).toNat ∉ [0x9E, 0xA1]) ∨
  ((opcode w).toNat = 0xF ∧ (fieldKK w).toNat ∉ [0x07, 0x0A, 0x15, 0x18, 0x1E, 0x29, 0x33, 0x55, 0x65])

/-- Two outcomes that are the same except for what `view` forgets of a next state. -/
def SameOutcome (view : State → State) (p q : Result) : Prop :=
  match p, q with
  | .next t, .next u => view t = view u
  | .fault f, .fault g => f = g
  | .refused f, .refused g => f = g
  | _, _ => False

/-- Forget ST. -/
def withoutSt (s : State) : State := { s with st := 0#8 }

end Sys2Proof.Spec

open Sys2Proof Sys2Proof.Machine Sys2Proof.Spec

/-! Encoding. -/

/-- No operand bit is lost: every well-formed instruction is decoded from its own word, and from its two bytes with any
bytes after them (spec/30_encoding.md R90, R91, R101). -/
def Obligations.DecodeEncodeAgree : Prop :=
  ∀ i : Instr, i.wf = true →
    decode (encode i) = .instr i ∧ ∀ rest, decodeBytes (encodeBytes i ++ rest) = .ok (.instr i, rest)

/-- Every word that decodes to an instruction is that instruction's own word, and the instruction is well formed. -/
def Obligations.EncodeDecodeAgree : Prop :=
  ∀ (w : Word) (i : Instr), decode w = .instr i → i.wf = true ∧ encode i = w

/-- The decoder takes the first row of the opcode map that matches, the most specific mask first, and answers
`Undefined(w)` where no row matches (R101, R102). -/
def Obligations.DecoderFollowsOpcodeMap : Prop :=
  (∀ (w : Word) (i : Instr), decode w = .instr i → (opcodeRow w).map (·.mnemonic) = some i.mnemonic) ∧
  ∀ w u : Word, decode w = .undefined u → u = w ∧ opcodeRow w = none

/-- The undefined encodings are exactly those R99 lists; each executes as a no-op. -/
def Obligations.UndefinedEncodingsAreExactlyTheListed : Prop :=
  (∀ w : Word, UndefinedWord w ↔ ∃ u, decode w = .undefined u) ∧
  ∀ (w : Word) (s : State), execDecoded (.undefined w) s = .next s

/-- The fields of R91, each an unsigned number cut from the word. -/
def Obligations.FieldsAreCutFromTheWord : Prop :=
  ∀ w : Word,
    (opcode w).toNat = w.toNat / 4096 ∧ (fieldNNN w).toNat = w.toNat % 4096 ∧ (fieldN w).toNat = w.toNat % 16 ∧
    (fieldX w).toNat = w.toNat / 256 % 16 ∧ (fieldY w).toNat = w.toNat / 16 % 16 ∧ (fieldKK w).toNat = w.toNat % 256

/-- Sanity: words written out from the patterns of R101, one or more for each opcode nibble. -/
def Obligations.SampleWordsDecode : Prop :=
  decode 0x00E0 = .instr .cls ∧ decode 0x00EE = .instr .ret ∧ decode 0x01E0 = .instr (.sys 0x1E0) ∧
  decode 0x1234 = .instr (.jp 0x234) ∧ decode 0x2ABC = .instr (.call 0xABC) ∧ decode 0x3A42 = .instr (.seImm 0xA 0x42) ∧
  decode 0x4B1F = .instr (.sneImm 0xB 0x1F) ∧ decode 0x5120 = .instr (.seReg 1 2) ∧ decode 0x7001 = .instr (.addImm 0 1) ∧
  decode 0x9EF0 = .instr (.sneReg 0xE 0xF) ∧ decode 0xB300 = .instr (.jpV0 0x300) ∧
  decode 0x6A9D = .instr (.ldImm 0xA 0x9D) ∧ decode 0x8AB6 = .instr (.shr 0xA 0xB) ∧ decode 0xA300 = .instr (.ldI 0x300) ∧
  decode 0xC70F = .instr (.rnd 7 0x0F) ∧ decode 0xD125 = .instr (.drw 1 2 5) ∧ decode 0xE59E = .instr (.skp 5) ∧
  decode 0xF30A = .instr (.ldVK 3) ∧ decode 0xF265 = .instr (.ldVMem 2) ∧ decode 0x5121 = .undefined 0x5121

/-! The step. -/

/-- A step runs the decoded instruction (R122 to R125): the ticks that fall before it (R320, a free number), PC advanced
by 2, then `exec` of the instruction; an undefined encoding does nothing more. `stepped` is the model's own field
(log 17). -/
def Obligations.StepRunsTheDecodedInstruction : Prop :=
  ∀ s : State, s.CanFetch →
    (∀ i, decode s.fetch16 = .instr i → step s = exec i { s.passTicks with pc := s.pc + 2#16, stepped := true }) ∧
    (∀ w, decode s.fetch16 = .undefined w → step s = .next { s.passTicks with pc := s.pc + 2#16, stepped := true })

/-- The instruction word is big-endian at PC (R67): `mem[PC]` is bits 15:8. The ticks before a step do not change it. -/
def Obligations.FetchIsBigEndian : Prop :=
  ∀ s : State,
    s.fetch16.toNat = (s.byteAt s.pc.toNat).toNat * 256 + (s.byteAt (s.pc.toNat + 1)).toNat ∧
    s.passTicks.fetch16 = s.fetch16

/-- A step with PC above `0xFFE` changes nothing but the latch, which records PC (R121; D30), after the ticks that fall
before the step (R320, a free number, log 7); every later step answers that fault. `stepped` is the model's own field
(log 17). -/
def Obligations.PcOutOfBoundsIsLatched : Prop :=
  ∀ s : State, s.Ready → 0xFFE < s.pc.toNat →
    ∃ t, step s = .next t ∧ t = { s.passTicks with fault := some (.pcOob s.pc), stepped := true } ∧
      Untouched { fault := true, dt := true, st := true, draws := true, stepped := true } s t ∧
      step t = .fault (.latched (.pcOob s.pc))

/-- The machine's step stops only at its entry checks, disposed before latched (R120, R305), and refuses nothing. Two
clauses rest on the model: a step that raises a latched fault is a next state (log 1); in WaitKey, where the host's
`step()` has no move (R120 item 3, D20), the machine's step is the pending step going on (log 6). -/
def Obligations.StepStopsOnlyAtEntry : Prop :=
  (∀ s r, step s ≠ .refused r) ∧
  ∀ s f, step s = .fault f ↔
    (s.disposed = true ∧ f = .disposed) ∨ (s.disposed = false ∧ ∃ g, s.fault = some g ∧ f = .latched g)

/-- The replies of a call that fetches (R129): `Pending` exactly for `Fx0A`; a failure exactly when the call latched a
fault; else `Ok`. A call while a step is pending has no move (R120 item 3; D20). -/
def Obligations.CallRepliesByOutcome : Prop :=
  (∀ s : State, s.CanFetch → ∃ t, s.hostCall = .next t ∧
    (replyOf s.hostCall = some .pending ↔ ∃ x, decode s.fetch16 = .instr (.ldVK x)) ∧
    (∀ f, replyOf s.hostCall = some (.fail (.latched f)) ↔ t.fault = some f) ∧
    (replyOf s.hostCall = some .ok ↔ t.fault = none ∧ t.mode = .running)) ∧
  ∀ s : State, s.waiting = true → s.hostCall = .refused .stepWhilePending

/-! Reset. -/

/-- The state after construction (spec/10_state.md R39, spec/70_reset_and_hazards.md R350): the glyph of digit 0 at
`0x000`, zero from `0x050` up, registers and timers 0, PC `0x200`, SP empty, the screen clear, running. I, the stack
slots and the mode are the spec's own decision (D25). Nothing is said of glyphs 1..F (log 3). -/
def Obligations.ResetState : Prop :=
  (List.range 5).map State.reset.byteAt = [0xF0, 0x90, 0x90, 0x90, 0xF0] ∧
  (∀ a, 0x50 ≤ a → State.reset.byteAt a = 0#8) ∧ (∀ z, State.reset.reg z = 0#8) ∧
  State.reset.i = 0#16 ∧ State.reset.pc = 0x200#16 ∧ State.reset.sp.toInt = -1 ∧
  (∀ j : Fin 16, State.reset.stack[j] = 0#16) ∧ State.reset.dt = 0#8 ∧ State.reset.st = 0#8 ∧
  (∀ r c, pixel State.reset.fb r c = false) ∧ State.reset.disposed = false ∧ State.reset.mode = .running ∧
  State.reset.fault = none

/-! Register loads and arithmetic (spec/43_alu.md). -/

/-- `6xkk` and `7xkk` (R201, R202): the result, no flag, nothing else. -/
def Obligations.ImmediateLoadAndAdd : Prop :=
  EncodedBy 0xF000 0x6000 (fun w => .ldImm (fieldX w) (fieldKK w)) ∧
  EncodedBy 0xF000 0x7000 (fun w => .addImm (fieldX w) (fieldKK w)) ∧
  ∀ (s : State) (x : RegNum) (kk : Byte),
    (∃ t, exec (.ldImm x kk) s = .next t ∧ t.reg x = kk ∧ Untouched { regs := [x] } s t) ∧
    (∃ t, exec (.addImm x kk) s = .next t ∧ (t.reg x).toNat = ((s.reg x).toNat + kk.toNat) % 256 ∧
      Untouched { regs := [x] } s t)

/-- `8xy0` to `8xy3` (R203 to R206): the result bit by bit; VF is written only as the destination (D23). -/
def Obligations.RegisterMoveAndLogic : Prop :=
  EncodedBy 0xF00F 0x8000 (fun w => .ldReg (fieldX w) (fieldY w)) ∧
  EncodedBy 0xF00F 0x8001 (fun w => .orReg (fieldX w) (fieldY w)) ∧
  EncodedBy 0xF00F 0x8002 (fun w => .andReg (fieldX w) (fieldY w)) ∧
  EncodedBy 0xF00F 0x8003 (fun w => .xorReg (fieldX w) (fieldY w)) ∧
  ∀ (s : State) (x y : RegNum),
    (∃ t, exec (.ldReg x y) s = .next t ∧ t.reg x = s.reg y ∧ Untouched { regs := [x] } s t) ∧
    (∃ t, exec (.orReg x y) s = .next t ∧
      (∀ k, (t.reg x).getLsbD k = ((s.reg x).getLsbD k || (s.reg y).getLsbD k)) ∧ Untouched { regs := [x] } s t) ∧
    (∃ t, exec (.andReg x y) s = .next t ∧
      (∀ k, (t.reg x).getLsbD k = ((s.reg x).getLsbD k && (s.reg y).getLsbD k)) ∧ Untouched { regs := [x] } s t) ∧
    (∃ t, exec (.xorReg x y) s = .next t ∧
      (∀ k, (t.reg x).getLsbD k = ((s.reg x).getLsbD k ^^ (s.reg y).getLsbD k)) ∧ Untouched { regs := [x] } s t)

/-- `8xy4`, `8xy5`, `8xy7` (R207, R208, R210, R214): the result mod 256, unless `x` = F, and VF the flag, written last
(D10); equal operands do not borrow (D11). -/
def Obligations.AddAndSubtractWithFlag : Prop :=
  EncodedBy 0xF00F 0x8004 (fun w => .addReg (fieldX w) (fieldY w)) ∧
  EncodedBy 0xF00F 0x8005 (fun w => .sub (fieldX w) (fieldY w)) ∧
  EncodedBy 0xF00F 0x8007 (fun w => .subn (fieldX w) (fieldY w)) ∧
  ∀ (s : State) (x y : RegNum),
    (∃ t, exec (.addReg x y) s = .next t ∧
      (x ≠ regF → (t.reg x).toNat = ((s.reg x).toNat + (s.reg y).toNat) % 256) ∧
      (t.reg regF).toNat = (if 255 < (s.reg x).toNat + (s.reg y).toNat then 1 else 0) ∧
      Untouched { regs := [x, regF] } s t) ∧
    (∃ t, exec (.sub x y) s = .next t ∧
      (x ≠ regF → ((t.reg x).toNat : Int) = (((s.reg x).toNat : Int) - (s.reg y).toNat) % 256) ∧
      (t.reg regF).toNat = (if (s.reg y).toNat ≤ (s.reg x).toNat then 1 else 0) ∧
      Untouched { regs := [x, regF] } s t) ∧
    (∃ t, exec (.subn x y) s = .next t ∧
      (x ≠ regF → ((t.reg x).toNat : Int) = (((s.reg y).toNat : Int) - (s.reg x).toNat) % 256) ∧
      (t.reg regF).toNat = (if (s.reg x).toNat ≤ (s.reg y).toNat then 1 else 0) ∧
      Untouched { regs := [x, regF] } s t)

/-- `8xy6`, `8xyE` (R209, R211) for either value of `SHIFT_SOURCE` (R7, D9): the shifted value halved or doubled mod 256,
unless `x` = F, and VF the bit shifted out, written last (D10). -/
def Obligations.ShiftsWithFlag : Prop :=
  EncodedBy 0xF00F 0x8006 (fun w => .shr (fieldX w) (fieldY w)) ∧
  EncodedBy 0xF00F 0x800E (fun w => .shl (fieldX w) (fieldY w)) ∧
  ∀ (s : State) (x y : RegNum),
    (∃ t, exec (.shr x y) s = .next t ∧ (x ≠ regF → (t.reg x).toNat = (shifted s x y).toNat / 2) ∧
      (t.reg regF).toNat = (shifted s x y).toNat % 2 ∧ Untouched { regs := [x, regF] } s t) ∧
    (∃ t, exec (.shl x y) s = .next t ∧ (x ≠ regF → (t.reg x).toNat = (shifted s x y).toNat * 2 % 256) ∧
      (t.reg regF).toNat = (shifted s x y).toNat / 128 ∧ Untouched { regs := [x, regF] } s t)

/-- `Cxkk` (R212): the byte drawn AND `kk`, whatever byte is drawn (D28), so no bit outside `kk` is set. -/
def Obligations.RandomByteIsMasked : Prop :=
  EncodedBy 0xF000 0xC000 (fun w => .rnd (fieldX w) (fieldKK w)) ∧
  ∀ (s : State) (x : RegNum) (kk : Byte),
    ∃ t, exec (.rnd x kk) s = .next t ∧
      (∀ k, (t.reg x).getLsbD k = ((Config.randByte s.draws).getLsbD k && kk.getLsbD k)) ∧
      t.reg x &&& ~~~kk = 0#8 ∧ t.draws = s.draws + 1 ∧ Untouched { regs := [x], draws := true } s t

/-! Control flow (spec/42_control_flow.md). -/

/-- `1nnn` and `Bnnn` (R171, R177): a 16-bit target, not cut to 12 bits and not checked here. -/
def Obligations.JumpsSetPc : Prop :=
  EncodedBy 0xF000 0x1000 (fun w => .jp (fieldNNN w)) ∧
  EncodedBy 0xF000 0xB000 (fun w => .jpV0 (fieldNNN w)) ∧
  ∀ (s : State) (nnn : Addr12),
    (∃ t, exec (.jp nnn) s = .next t ∧ t.pc.toNat = nnn.toNat ∧ Untouched { pc := true } s t) ∧
    (∃ t, exec (.jpV0 nnn) s = .next t ∧ t.pc.toNat = (nnn.toNat + (s.reg 0).toNat) % 65536 ∧
      Untouched { pc := true } s t)

/-- The four skips (R173 to R176): PC + 2 more, mod 65536, exactly when the condition holds. -/
def Obligations.SkipsCompareAndSkip : Prop :=
  EncodedBy 0xF000 0x3000 (fun w => .seImm (fieldX w) (fieldKK w)) ∧
  EncodedBy 0xF000 0x4000 (fun w => .sneImm (fieldX w) (fieldKK w)) ∧
  EncodedBy 0xF00F 0x5000 (fun w => .seReg (fieldX w) (fieldY w)) ∧
  EncodedBy 0xF00F 0x9000 (fun w => .sneReg (fieldX w) (fieldY w)) ∧
  ∀ (s : State) (x y : RegNum) (kk : Byte),
    (∃ t, exec (.seImm x kk) s = .next t ∧ Untouched { pc := true } s t ∧
      t.pc.toNat = if s.reg x = kk then (s.pc.toNat + 2) % 65536 else s.pc.toNat) ∧
    (∃ t, exec (.sneImm x kk) s = .next t ∧ Untouched { pc := true } s t ∧
      t.pc.toNat = if s.reg x ≠ kk then (s.pc.toNat + 2) % 65536 else s.pc.toNat) ∧
    (∃ t, exec (.seReg x y) s = .next t ∧ Untouched { pc := true } s t ∧
      t.pc.toNat = if s.reg x = s.reg y then (s.pc.toNat + 2) % 65536 else s.pc.toNat) ∧
    (∃ t, exec (.sneReg x y) s = .next t ∧ Untouched { pc := true } s t ∧
      t.pc.toNat = if s.reg x ≠ s.reg y then (s.pc.toNat + 2) % 65536 else s.pc.toNat)

/-- `2nnn` (R172): SP is in -1..15 (R26); below 15 the advanced PC is pushed at SP + 1, every other slot is unchanged;
with SP = 15 (D4) nothing changes but the latch, which records the instruction's address (R302). -/
def Obligations.CallPushesOrOverflows : Prop :=
  EncodedBy 0xF000 0x2000 (fun w => .call (fieldNNN w)) ∧
  ∀ (s : State) (nnn : Addr12),
    (-1 ≤ s.sp.toInt ∧ s.sp.toInt ≤ 15) ∧
    (s.sp.toInt < 15 → ∃ t, exec (.call nnn) s = .next t ∧ t.sp.toInt = s.sp.toInt + 1 ∧
      (∀ j : Fin 16, t.stack[j] = if (j.val : Int) = s.sp.toInt + 1 then s.pc else s.stack[j]) ∧
      t.pc.toNat = nnn.toNat ∧ Untouched { pc := true, stack := true } s t) ∧
    (s.sp.toInt = 15 →
      exec (.call nnn) s = .next { s with fault := some (.stackOverflow (s.pc - 2#16)) })

/-- `00EE` (R170): with SP at a slot, PC is that slot's address and SP goes down, no slot is cleared; with SP = -1 (D5)
nothing changes but the latch, which records the instruction's address (R302). -/
def Obligations.ReturnPopsOrUnderflows : Prop :=
  decode 0x00EE = .instr .ret ∧
  ∀ s : State,
    (∀ j : Fin 16, s.sp.toInt = j.val → ∃ t, exec .ret s = .next t ∧ t.pc = s.stack[j] ∧
      t.sp.toInt = s.sp.toInt - 1 ∧ t.stack = s.stack ∧ Untouched { pc := true, stack := true } s t) ∧
    (s.sp.toInt = -1 → exec .ret s = .next { s with fault := some (.stackUnderflow (s.pc - 2#16)) })

/-- A call and its return come back to the instruction after the call, with SP as before (§8 of the source, L1.4), for
any code between that leaves the stack alone. -/
def Obligations.CallThenReturnComesBack : Prop :=
  ∀ (s : State) (nnn : Addr12), s.sp.toInt < 15 →
    ∃ t, exec (.call nnn) s = .next t ∧
      ∀ u : State, u.sp = t.sp → u.stack = t.stack →
        ∃ w, exec .ret u = .next w ∧ w.pc = s.pc ∧ w.sp = s.sp

/-- Undefined encodings and `0nnn` (R126, R127): PC advances by 2 and nothing else changes but what the ticks before the
step change (`passTicks`, log 7). Every word of family 0 but `00E0` and `00EE` is `SYS` (R94; D13). -/
def Obligations.NoOpsOnlyAdvance : Prop :=
  (∀ w : Word, (opcode w).toNat = 0 → w ≠ 0x00E0 → w ≠ 0x00EE → decode w = .instr (.sys (fieldNNN w))) ∧
  (∀ (s : State) (nnn : Addr12), ∃ t, exec (.sys nnn) s = .next t ∧ t = s) ∧
  ∀ s : State, s.CanFetch →
    ((∃ nnn, decode s.fetch16 = .instr (.sys nnn)) ∨ ∃ w, decode s.fetch16 = .undefined w) →
    ∃ t, step s = .next t ∧ t.pc.toNat = s.pc.toNat + 2 ∧ t.dt = s.passTicks.dt ∧ t.st = s.passTicks.st ∧
      Untouched { pc := true, dt := true, st := true, draws := true, stepped := true } s t

/-- A jump to itself ends a run (R360): every step leaves the state unchanged but for the ticks before it (`passTicks`,
log 7) and the model's own fields, and the machine stays at the jump. -/
def Obligations.SelfJumpStaysPut : Prop :=
  ∀ s : State, s.AtSelfJump →
    ∃ t, step s = .next t ∧ t.AtSelfJump ∧ t.dt = s.passTicks.dt ∧ t.st = s.passTicks.st ∧
      Untouched { dt := true, st := true, draws := true, stepped := true } s t

/-! The framebuffer (spec/41_display.md). -/

/-- `00E0` (R151): every pixel false, so `getDisplay()` gives 2048 false values; nothing else changes. -/
def Obligations.ClearScreen : Prop :=
  decode 0x00E0 = .instr .cls ∧
  ∀ s : State, ∃ t, exec .cls s = .next t ∧ (∀ r c, pixel t.fb r c = false) ∧
    t.getDisplay = List.replicate 2048 false ∧ Untouched { fb := true } s t

/-- `Dxyn` (R152 to R158): with its sprite addresses inside memory, each pixel changes exactly when a set sprite bit lands
on it, with wrap-around; VF, written last (D10), is 1 exactly when a set bit lands on a set pixel; nothing else changes.
Bit 7 is the leftmost pixel by the spec's decision D12 (log 11). -/
def Obligations.DrawXorsSprite : Prop :=
  EncodedBy 0xF000 0xD000 (fun w => .drw (fieldX w) (fieldY w) (fieldN w)) ∧
  ∀ (s : State) (x y : RegNum) (n : Nibble), SpriteInside s n →
    ∃ t, exec (.drw x y n) s = .next t ∧
      (∀ r c, SpriteBitAt s x y n r c → pixel t.fb r c = !pixel s.fb r c) ∧
      (∀ r c, ¬ SpriteBitAt s x y n r c → pixel t.fb r c = pixel s.fb r c) ∧
      ((∃ r c, SpriteBitAt s x y n r c ∧ pixel s.fb r c = true) → t.reg regF = 1#8) ∧
      ((¬ ∃ r c, SpriteBitAt s x y n r c ∧ pixel s.fb r c = true) → t.reg regF = 0#8) ∧
      Untouched { regs := [regF], fb := true } s t

/-- The collision flag (R155): VF is 1 exactly when some pixel that was set before is clear after, else 0. -/
def Obligations.CollisionFlagIsOrOverAllBits : Prop :=
  ∀ (s : State) (x y : RegNum) (n : Nibble), SpriteInside s n →
    ∃ t, exec (.drw x y n) s = .next t ∧
      ((∃ r c, pixel s.fb r c = true ∧ pixel t.fb r c = false) → t.reg regF = 1#8) ∧
      ((¬ ∃ r c, pixel s.fb r c = true ∧ pixel t.fb r c = false) → t.reg regF = 0#8)

/-- With `n` = 0 (R156) nothing is drawn and VF is 0, whatever I holds. -/
def Obligations.DrawOfHeightZero : Prop :=
  ∀ (s : State) (x y : RegNum), ∃ t, exec (.drw x y 0) s = .next t ∧ t.fb = s.fb ∧ t.reg regF = 0#8 ∧
    Untouched { regs := [regF] } s t

/-- Drawing the same sprite twice at the same place restores the screen, and the second drawing collides exactly when the
first one set a pixel (§8 of the source, L1.3). The coordinates are not VF, which the first drawing overwrites. -/
def Obligations.DrawTwiceRestoresScreen : Prop :=
  ∀ (s : State) (x y : RegNum) (n : Nibble), x ≠ regF → y ≠ regF → SpriteInside s n →
    ∃ t u, exec (.drw x y n) s = .next t ∧ exec (.drw x y n) t = .next u ∧ u.fb = s.fb ∧
      ((∃ r c, pixel s.fb r c = false ∧ pixel t.fb r c = true) ↔ u.reg regF = 1#8)

/-- `getDisplay()` (R159, spec/10_state.md R30): 2048 values, element `row * 64 + col` the pixel; the call changes
nothing (D26: at any time). -/
def Obligations.GetDisplayIsRowMajor : Prop :=
  ∀ s : State, s.getDisplay.length = 2048 ∧
    (∀ (r : Fin 32) (c : Fin 64), s.getDisplay[r.val * 64 + c.val]? = some (pixel s.fb r c)) ∧
    react .getDisplay s = .next s

/-! The index register and memory (spec/44_index_memory.md). -/

/-- `Annn` and `Fx29` (R240, R242): I only; five times the register is never masked. -/
def Obligations.IndexLoads : Prop :=
  EncodedBy 0xF000 0xA000 (fun w => .ldI (fieldNNN w)) ∧
  EncodedBy 0xF0FF 0xF029 (fun w => .ldF (fieldX w)) ∧
  ∀ (s : State) (x : RegNum) (nnn : Addr12),
    (∃ t, exec (.ldI nnn) s = .next t ∧ t.i.toNat = nnn.toNat ∧ Untouched { i := true } s t) ∧
    (∃ t, exec (.ldF x) s = .next t ∧ t.i.toNat = (s.reg x).toNat * 5 ∧ Untouched { i := true } s t)

/-- `Fx1E` (R241): 16-bit sum, not masked to 12 bits; VF is not written (D23). -/
def Obligations.IndexAdd : Prop :=
  EncodedBy 0xF0FF 0xF01E (fun w => .addI (fieldX w)) ∧
  ∀ (s : State) (x : RegNum),
    ∃ t, exec (.addI x) s = .next t ∧ t.i.toNat = (s.i.toNat + (s.reg x).toNat) % 65536 ∧
      Untouched { i := true } s t

/-- `Fx33` (R243): hundreds, tens and ones at I, I+1, I+2; every other byte, and I (D22), unchanged. -/
def Obligations.BcdStoresDigits : Prop :=
  EncodedBy 0xF0FF 0xF033 (fun w => .ldB (fieldX w)) ∧
  ∀ (s : State) (x : RegNum), s.i.toNat + 2 < 0x1000 →
    ∃ t, exec (.ldB x) s = .next t ∧
      (t.byteAt s.i.toNat).toNat = (s.reg x).toNat / 100 ∧
      (t.byteAt (s.i.toNat + 1)).toNat = (s.reg x).toNat / 10 % 10 ∧
      (t.byteAt (s.i.toNat + 2)).toNat = (s.reg x).toNat % 10 ∧
      Untouched { bytes := addresses s.i.toNat 3 } s t

/-- `Fx55` (R244): `V0..Vx` to I and up; every other byte, and I (D22), unchanged. -/
def Obligations.BlockStore : Prop :=
  EncodedBy 0xF0FF 0xF055 (fun w => .ldMemV (fieldX w)) ∧
  ∀ (s : State) (x : RegNum), s.i.toNat + x.toNat < 0x1000 →
    ∃ t, exec (.ldMemV x) s = .next t ∧
      (∀ k : RegNum, k.toNat ≤ x.toNat → t.byteAt (s.i.toNat + k.toNat) = s.reg k) ∧
      Untouched { bytes := addresses s.i.toNat (x.toNat + 1) } s t

/-- `Fx65` (R245): `V0..Vx` from I and up; registers above `x`, memory, and I (D22), unchanged. -/
def Obligations.BlockLoad : Prop :=
  EncodedBy 0xF0FF 0xF065 (fun w => .ldVMem (fieldX w)) ∧
  ∀ (s : State) (x : RegNum), s.i.toNat + x.toNat < 0x1000 →
    ∃ t, exec (.ldVMem x) s = .next t ∧
      (∀ k : RegNum, k.toNat ≤ x.toNat → t.reg k = s.byteAt (s.i.toNat + k.toNat)) ∧
      Untouched { regs := regsTo x } s t

/-- `Fx55` then `Fx65` restores `V0..Vx`, whatever the registers held between (R246). -/
def Obligations.StoreThenLoadRestoresRegisters : Prop :=
  ∀ (s : State) (x : RegNum), s.i.toNat + x.toNat < 0x1000 →
    ∃ t, exec (.ldMemV x) s = .next t ∧
      ∀ regs : Vector Byte 16, ∃ u, exec (.ldVMem x) { t with v := regs } = .next u ∧
        ∀ k : RegNum, k.toNat ≤ x.toNat → u.reg k = s.reg k

/-- A data access outside memory (R66; D6): `Dxyn`, `Fx33`, `Fx55`, `Fx65` change nothing but the latch, which records
the lowest address at or above `0x1000` they would access (R302). -/
def Obligations.DataOutOfBoundsIsLatched : Prop :=
  ∀ (s : State) (x y : RegNum) (n : Nibble),
    (n.toNat ≠ 0 → 0x1000 < s.i.toNat + n.toNat →
      exec (.drw x y n) s = .next { s with fault := some (.memOob (max s.i.toNat 0x1000)) }) ∧
    (0x1000 ≤ s.i.toNat + 2 →
      exec (.ldB x) s = .next { s with fault := some (.memOob (max s.i.toNat 0x1000)) }) ∧
    (0x1000 ≤ s.i.toNat + x.toNat →
      exec (.ldMemV x) s = .next { s with fault := some (.memOob (max s.i.toNat 0x1000)) } ∧
      exec (.ldVMem x) s = .next { s with fault := some (.memOob (max s.i.toNat 0x1000)) })

/-- Equal memories are equal data: two canonical memories that read the same at every address are the same list. The
canonical form is the model's own (log 9). -/
def Obligations.CanonicalMemoryIsUnique : Prop :=
  ∀ (p : Params) (m n : Memory), Memory.wf p m → Memory.wf p n → (∀ a, memRead p m a = memRead p n a) → m = n

/-! Timers and keyboard (spec/45_timers_keys.md, spec/60_exceptions.md). -/

/-- `Fx07`, `Fx15`, `Fx18` (R272 to R274). -/
def Obligations.TimerTransfers : Prop :=
  EncodedBy 0xF0FF 0xF007 (fun w => .ldVDt (fieldX w)) ∧
  EncodedBy 0xF0FF 0xF015 (fun w => .ldDtV (fieldX w)) ∧
  EncodedBy 0xF0FF 0xF018 (fun w => .ldStV (fieldX w)) ∧
  ∀ (s : State) (x : RegNum),
    (∃ t, exec (.ldVDt x) s = .next t ∧ t.reg x = s.dt ∧ Untouched { regs := [x] } s t) ∧
    (∃ t, exec (.ldDtV x) s = .next t ∧ t.dt = s.reg x ∧ Untouched { dt := true } s t) ∧
    (∃ t, exec (.ldStV x) s = .next t ∧ t.st = s.reg x ∧ Untouched { st := true } s t)

/-- A tick (R306): both timers down by one, floored at zero, only while not disposed; nothing else changes. -/
def Obligations.TickDecrementsBothTimers : Prop :=
  ∀ s : State, react .tick s = .next s.tick ∧ (s.disposed = true → s.tick = s) ∧
    (s.disposed = false → s.tick.dt.toNat = s.dt.toNat - 1 ∧ s.tick.st.toNat = s.st.toNat - 1) ∧
    Untouched { dt := true, st := true } s s.tick

/-- The ticks a step applies at once are that many single ticks (R306, R307). -/
def Obligations.TicksAtOnceAreRepeatedTicks : Prop :=
  ∀ (s : State) (n : Nat), s.tickMany n = Nat.iterate State.tick n s

/-- `Fx15`, any number of ticks, `Fx07` (R357): the value read is the value written less the ticks, floored at zero. -/
def Obligations.DelayTimerReadsWhatTicksLeft : Prop :=
  ∀ (s : State) (x y : RegNum) (n : Nat), s.disposed = false →
    ∃ t u, exec (.ldDtV x) s = .next t ∧ exec (.ldVDt y) (Nat.iterate State.tick n t) = .next u ∧
      (u.reg y).toNat = (s.reg x).toNat - n

/-- `Ex9E` and `ExA1` (R270, R271), for every key state `k` the draw may give (D29): skip exactly when the drawn key
equals `V[x]`, and exactly when it does not; no key, and a value above F, equal nothing. -/
def Obligations.KeySkips : Prop :=
  EncodedBy 0xF0FF 0xE09E (fun w => .skp (fieldX w)) ∧
  EncodedBy 0xF0FF 0xE0A1 (fun w => .sknp (fieldX w)) ∧
  ∀ (s : State) (x : RegNum),
    (∃ f : Option Key → State, exec (.skp x) s = .next (f (Config.keyState s.draws)) ∧
      ∀ k, (NamesKey k (s.reg x) → (f k).pc = s.pc + 2#16) ∧ (¬ NamesKey k (s.reg x) → (f k).pc = s.pc) ∧
        (f k).draws = s.draws + 1 ∧ Untouched { pc := true, draws := true } s (f k)) ∧
    (∃ f : Option Key → State, exec (.sknp x) s = .next (f (Config.keyState s.draws)) ∧
      ∀ k, (NamesKey k (s.reg x) → (f k).pc = s.pc) ∧ (¬ NamesKey k (s.reg x) → (f k).pc = s.pc + 2#16) ∧
        (f k).draws = s.draws + 1 ∧ Untouched { pc := true, draws := true } s (f k))

/-- `Fx0A` (R275): the mode becomes `WaitKey(x)`; after any number of ticks a press stores the key and the mode is
`running`; a press at any other time changes nothing (R310; D29). -/
def Obligations.KeyWaitStoresTheKey : Prop :=
  EncodedBy 0xF0FF 0xF00A (fun w => .ldVK (fieldX w)) ∧
  (∀ (s : State) (x : RegNum), ∃ t, exec (.ldVK x) s = .next t ∧ t.mode = .waitKey x ∧ Untouched { mode := true } s t ∧
    (s.disposed = false → ∀ (n : Nat) (k : Key),
      ((Nat.iterate State.tick n t).press k).mode = .running ∧
      (((Nat.iterate State.tick n t).press k).reg x).toNat = k.toNat ∧
      Untouched { regs := [x], dt := true, st := true, mode := true } s ((Nat.iterate State.tick n t).press k))) ∧
  ∀ (s : State) (k : Key), s.mode = .running → s.press k = s

/-- The machine's step while a step is pending (R275, R319), for every press the draw may give (log 6): without a press
it goes on waiting, and with key `c` the waiting register is `c` and the mode `running`. Only the timers (by the ticks
before the step, `passTicks`, log 7) and the draws change besides, and it never stops. -/
def Obligations.PendingStepWaitsOrTakesKey : Prop :=
  ∀ (s : State) (x : RegNum), s.waiting = true → s.mode = .waitKey x →
    ∃ f : Option Key → State, step s = .next (f (Config.keyPress (s.draws + 1))) ∧
      (∀ k, (f k).dt = s.passTicks.dt ∧ (f k).st = s.passTicks.st) ∧
      (f none).mode = .waitKey x ∧ Untouched { dt := true, st := true, draws := true } s (f none) ∧
      ∀ c : Key, (f (some c)).mode = .running ∧ ((f (some c)).reg x).toNat = c.toNat ∧
        Untouched { regs := [x], mode := true, dt := true, st := true, draws := true } s (f (some c))

/-- `Fx0A` is the only instruction that suspends (R276). -/
def Obligations.OnlyKeyWaitSuspends : Prop :=
  (∀ (s : State) (x : RegNum), ∃ t, exec (.ldVK x) s = .next t ∧ t.mode = .waitKey x) ∧
  ∀ (i : Instr) (s t : State), (∀ x, i ≠ .ldVK x) → exec i s = .next t → t.mode = s.mode

/-! The host interface (spec/60_exceptions.md, spec/70_reset_and_hazards.md). -/

/-- `dispose()` and the disposed flag (R31, R315): false after construction, set by `dispose()`, idempotent, every step
is rejected after it, the ticker is stopped, and no event changes the state again. -/
def Obligations.DisposedIsTerminal : Prop :=
  State.reset.disposed = false ∧
  (∀ s : State, s.dispose.disposed = true ∧ s.dispose.dispose = s.dispose ∧
    s.dispose.mem = s.mem ∧ s.dispose.v = s.v ∧ s.dispose.i = s.i ∧ s.dispose.pc = s.pc ∧ s.dispose.sp = s.sp ∧
    s.dispose.stack = s.stack ∧ s.dispose.fb = s.fb ∧ s.dispose.dt = s.dt ∧ s.dispose.st = s.st) ∧
  (∀ s : State, s.disposed = true → step s = .fault .disposed ∧ s.hostCall = .fault .disposed ∧ s.tick = s) ∧
  ∀ (e : Event) (s t : State), s.disposed = true → react e s = .next t → t = s

/-- `dispose()` while `Fx0A` is pending (R316; D17): the pending step fails with `E_DISPOSED`, the register is not
written, and a later press changes nothing. That the mode is then `running` is the model's reading (log 16). -/
def Obligations.DisposeCancelsTheWait : Prop :=
  ∀ s : State, s.waiting = true →
    s.disposeReply = some (.fail .disposed) ∧ s.dispose.mode = .running ∧ s.dispose.v = s.v ∧
    ∀ k, s.dispose.press k = s.dispose

/-- `loadProgram` (R351, R352; D18, D19) before the first step of a machine not disposed: at most `0xE00` bytes go to
`0x200` and up and nothing else changes; more is an error and writes nothing. After the first step it has no move
(log 17), and every step that runs marks the first step as taken. -/
def Obligations.LoadProgramCopiesOrFails : Prop :=
  (∀ (s : State) (bytes : List Byte), s.disposed = false → s.stepped = false →
    (bytes.length ≤ 0xE00 → ∃ t, react (.loadProgram bytes) s = .next t ∧
      (∀ (k : Nat) (h : k < bytes.length), t.byteAt (0x200 + k) = bytes[k]) ∧
      Untouched { bytes := addresses 0x200 bytes.length } s t) ∧
    (0xE00 < bytes.length → react (.loadProgram bytes) s = .fault (.loadTooLarge bytes.length))) ∧
  (∀ (s : State) (bytes : List Byte), s.disposed = false → s.stepped = true →
    react (.loadProgram bytes) s = .refused .loadAfterFirstStep) ∧
  ∀ s t : State, s.Ready → step s = .next t → t.stepped = true

/-- A latched fault is never cleared and blocks every later step, while ticks and `getDisplay` go on (R33, R309; D7). -/
def Obligations.LatchedFaultIsPermanent : Prop :=
  ∀ (s : State) (f : StepFault), s.fault = some f →
    (∀ (e : Event) (t : State), react e s = .next t → t.fault = some f) ∧
    (s.disposed = false → step s = .fault (.latched f) ∧ react .call s = .fault (.latched f) ∧
      ∃ t, react .tick s = .next t)

/-! Whole-machine rules. -/

/-- Which general registers `exec` of an instruction can change (R22, R23): only those the table names, VF among them. For
`Fx0A` that is none: its `exec` is part 1 of R275, and the press of part 2 writes `V[x]` (KeyWaitStoresTheKey). -/
def Obligations.GeneralRegisterWriters : Prop :=
  ∀ (i : Instr) (s t : State) (z : RegNum), exec i s = .next t → z ∉ writtenRegs i → t.reg z = s.reg z

/-- Which instructions can change each other piece of state (R24 to R30, R32, R33, R65, R276), PC being already advanced;
the parameters, the disposed flag and `stepped` are changed by none, and only a draw (R8) is counted. -/
def Obligations.OtherStateWriters : Prop :=
  ∀ (i : Instr) (s t : State), exec i s = .next t →
    (t.pc ≠ s.pc → i = .ret ∨ (∃ nnn, i = .jp nnn) ∨ (∃ nnn, i = .call nnn) ∨ (∃ nnn, i = .jpV0 nnn) ∨
      (∃ x kk, i = .seImm x kk) ∨ (∃ x kk, i = .sneImm x kk) ∨ (∃ x y, i = .seReg x y) ∨ (∃ x y, i = .sneReg x y) ∨
      (∃ x, i = .skp x) ∨ ∃ x, i = .sknp x) ∧
    (t.i ≠ s.i → (∃ nnn, i = .ldI nnn) ∨ (∃ x, i = .addI x) ∨ ∃ x, i = .ldF x) ∧
    (t.sp ≠ s.sp → i = .ret ∨ ∃ nnn, i = .call nnn) ∧
    (t.stack ≠ s.stack → ∃ nnn, i = .call nnn) ∧
    (t.dt ≠ s.dt → ∃ x, i = .ldDtV x) ∧
    (t.st ≠ s.st → ∃ x, i = .ldStV x) ∧
    (t.fb ≠ s.fb → i = .cls ∨ ∃ x y n, i = .drw x y n) ∧
    (t.mem ≠ s.mem → (∃ x, i = .ldB x) ∨ ∃ x, i = .ldMemV x) ∧
    (t.mode ≠ s.mode → ∃ x, i = .ldVK x) ∧
    (t.fault ≠ s.fault → i = .ret ∨ (∃ nnn, i = .call nnn) ∨ (∃ x y n, i = .drw x y n) ∨ (∃ x, i = .ldB x) ∨
      (∃ x, i = .ldMemV x) ∨ ∃ x, i = .ldVMem x) ∧
    (t.draws ≠ s.draws → (∃ x kk, i = .rnd x kk) ∨ (∃ x, i = .skp x) ∨ ∃ x, i = .sknp x) ∧
    t.params = s.params ∧ t.disposed = s.disposed ∧ t.stepped = s.stepped

/-- The parameters of R7, which State carries (log 2), are never changed by a step or an event. -/
def Obligations.ParametersNeverChange : Prop :=
  (∀ s t : State, step s = .next t → t.params = s.params) ∧
  ∀ (e : Event) (s t : State), react e s = .next t → t.params = s.params

/-- The state after construction meets the invariant. -/
def Obligations.ResetMeetsInvariant : Prop := State.reset.Inv

/-- Every step keeps the invariant: canonical memory, PC at most `0x10FE`, live return addresses at most `0x1000` (R133),
no wait after disposal. -/
def Obligations.StepKeepsInvariant : Prop :=
  ∀ s t : State, s.Inv → step s = .next t → t.Inv

/-- Every run of the events of R320 keeps the invariant, failed calls among them. -/
def Obligations.EventsKeepInvariant : Prop :=
  ∀ (es : List Event) (s t : State), s.Inv → runEvents es s = some t → t.Inv

/-- A call that fails at its entry, and an oversized load, change nothing and the run goes on (R120, R309, R320); when
these failures happen (R120, R305, R352; D18); and which events have no move, the host duties (R314; D19, D20; log 17).
A call that raises a latched fault fails too and changes PC and the latch (R125, R128, R301); it is a next state here,
not a `.fault`, by log 1, and `replyOf` gives its failure (CallRepliesByOutcome). -/
def Obligations.FailedCallsDoNotEndARun : Prop :=
  (∀ (e : Event) (s : State) (f : Fault), react e s = .fault f → ∀ es, runEvents (e :: es) s = runEvents es s) ∧
  (∀ (e : Event) (s : State) (f : Fault), react e s = .fault f ↔
    (e = .call ∧ s.disposed = true ∧ f = .disposed) ∨
    (e = .call ∧ s.disposed = false ∧ ∃ g, s.fault = some g ∧ f = .latched g) ∨
    ∃ bytes, e = .loadProgram bytes ∧ s.disposed = false ∧ s.stepped = false ∧ 0xE00 < bytes.length ∧
      f = .loadTooLarge bytes.length) ∧
  ∀ (e : Event) (s : State), runEvents [e] s = none ↔
    (e = .call ∧ s.waiting = true) ∨ ∃ bytes, e = .loadProgram bytes ∧ (s.disposed = true ∨ s.stepped = true)

/-- The machine's step is an interleaving of R320: some ticks, then the host's call, or, while a step is pending, then
at most one press. The free values taken are counted in `draws`. -/
def Obligations.StepIsAnInterleaving : Prop :=
  ∀ s : State,
    (s.waiting = false → ∃ n t, runEvents (List.replicate n .tick) s.countDraw = some t ∧ step s = react .call t) ∧
    (s.waiting = true → ∃ n t, runEvents (List.replicate n .tick) s.countDraw.countDraw = some t ∧
      (step s = .next t ∨ ∃ k, step s = react (.press k) t))

/-- ST affects no other state and no output (R29): two machines that differ only in ST take steps, and react to every
event, with outcomes that differ only in ST. -/
def Obligations.SoundTimerAffectsNothing : Prop :=
  ∀ s t : State, withoutSt s = withoutSt t →
    SameOutcome withoutSt (step s) (step t) ∧ (∀ e, SameOutcome withoutSt (react e s) (react e t)) ∧
    s.getDisplay = t.getDisplay
end

