-- ==== Sys2Proof/Laws/Decode.lean ====
section
/-! SUPPORT. The fields of the three formats, and of a word that matches a mask (spec/30_encoding.md R91, R101). -/

namespace Sys2Proof

theorem extract_all {n : Nat} (a : BitVec n) : a.extractLsb' 0 n = a := by
  apply BitVec.eq_of_toNat_eq
  simp

/-- The upper part of a concatenation. -/
theorem extract_high {m n : Nat} (a : BitVec m) (b : BitVec n) : (a ++ b).extractLsb' n m = a := by
  rw [BitVec.extractLsb'_append_eq_of_le (Nat.le_refl n), Nat.sub_self, extract_all]

/-- The lower part of a concatenation. -/
theorem extract_low {m n : Nat} (a : BitVec m) (b : BitVec n) : (a ++ b).extractLsb' 0 n = b := by
  rw [BitVec.extractLsb'_append_eq_of_add_le (by omega), extract_all]

/-! The format `opcode nnn`. -/

@[simp] theorem opcode_wordNNN (op : Nibble) (nnn : Addr12) : opcode (wordNNN op nnn) = op := extract_high op nnn

@[simp] theorem fieldNNN_wordNNN (op : Nibble) (nnn : Addr12) : fieldNNN (wordNNN op nnn) = nnn := extract_low op nnn

/-! The format `opcode x kk`. -/

@[simp] theorem opcode_wordXKK (op : Nibble) (x : RegNum) (kk : Byte) : opcode (wordXKK op x kk) = op :=
  (BitVec.extractLsb'_append_eq_of_le (xhi := (op ++ x : BitVec 8)) (xlo := kk) (start := 12) (len := 4)
    (by decide)).trans (extract_high op x)

@[simp] theorem fieldX_wordXKK (op : Nibble) (x : RegNum) (kk : Byte) : fieldX (wordXKK op x kk) = x :=
  (BitVec.extractLsb'_append_eq_of_le (xhi := (op ++ x : BitVec 8)) (xlo := kk) (start := 8) (len := 4)
    (by decide)).trans (extract_low op x)

@[simp] theorem fieldKK_wordXKK (op : Nibble) (x : RegNum) (kk : Byte) : fieldKK (wordXKK op x kk) = kk :=
  extract_low (op ++ x : BitVec 8) kk

/-! The format `opcode x y n`: `kk` is `y` and `n` together. -/

theorem wordXYN_eq (op : Nibble) (x y : RegNum) (n : Nibble) : wordXYN op x y n = wordXKK op x (y ++ n : BitVec 8) :=
  rfl

@[simp] theorem opcode_wordXYN (op : Nibble) (x y : RegNum) (n : Nibble) : opcode (wordXYN op x y n) = op :=
  opcode_wordXKK op x _

@[simp] theorem fieldX_wordXYN (op : Nibble) (x y : RegNum) (n : Nibble) : fieldX (wordXYN op x y n) = x :=
  fieldX_wordXKK op x _

@[simp] theorem fieldY_wordXYN (op : Nibble) (x y : RegNum) (n : Nibble) : fieldY (wordXYN op x y n) = y :=
  (BitVec.extractLsb'_append_eq_of_add_le (xhi := (op ++ x : BitVec 8)) (xlo := (y ++ n : BitVec 8)) (start := 4)
    (len := 4) (by decide)).trans (extract_high y n)

@[simp] theorem fieldN_wordXYN (op : Nibble) (x y : RegNum) (n : Nibble) : fieldN (wordXYN op x y n) = n :=
  (BitVec.extractLsb'_append_eq_of_add_le (xhi := (op ++ x : BitVec 8)) (xlo := (y ++ n : BitVec 8)) (start := 0)
    (len := 4) (by decide)).trans (extract_low y n)

/-! The parts of a word put together again. -/

theorem extract_append_extract (w : Word) : (highByte w ++ lowByte w : BitVec 16) = w := by
  apply BitVec.eq_of_getLsbD_eq
  intro k hk
  simp only [highByte, lowByte, BitVec.getLsbD_append, BitVec.getLsbD_extractLsb']
  by_cases h : k < 8
  · simp [h]
  · simp [h, show k - 8 < 8 by omega, show 8 + (k - 8) = k by omega]

@[simp] theorem wordOfBytes_bytes (w : Word) : wordOfBytes (highByte w) (lowByte w) = w := extract_append_extract w

/-- The bits a word has in a mask and pattern, cut out as a field. -/
theorem extract_of_mask {w mask pattern : Word} (h : w &&& mask = pattern) (start len : Nat) :
    w.extractLsb' start len &&& mask.extractLsb' start len = pattern.extractLsb' start len := by
  rw [← BitVec.extractLsb'_and, h]

/-- Mask `0xF000` fixes the opcode nibble. -/
theorem opcode_of_mask {w pattern : Word} (h : w &&& 0xF000#16 = pattern) : opcode w = opcode pattern := by
  have h := extract_of_mask h 12 4
  rwa [show (0xF000#16).extractLsb' 12 4 = BitVec.allOnes 4 by decide, BitVec.and_allOnes] at h

/-- Mask `0xF00F` fixes the opcode nibble and `n`. -/
theorem fields_of_mask_F00F {w pattern : Word} (h : w &&& 0xF00F#16 = pattern) :
    opcode w = opcode pattern ∧ fieldN w = fieldN pattern := by
  refine ⟨?_, ?_⟩
  · have h := extract_of_mask h 12 4
    rwa [show (0xF00F#16).extractLsb' 12 4 = BitVec.allOnes 4 by decide, BitVec.and_allOnes] at h
  · have h := extract_of_mask h 0 4
    rwa [show (0xF00F#16).extractLsb' 0 4 = BitVec.allOnes 4 by decide, BitVec.and_allOnes] at h

/-- Mask `0xF0FF` fixes the opcode nibble and `kk`. -/
theorem fields_of_mask_F0FF {w pattern : Word} (h : w &&& 0xF0FF#16 = pattern) :
    opcode w = opcode pattern ∧ fieldKK w = fieldKK pattern := by
  refine ⟨?_, ?_⟩
  · have h := extract_of_mask h 12 4
    rwa [show (0xF0FF#16).extractLsb' 12 4 = BitVec.allOnes 4 by decide, BitVec.and_allOnes] at h
  · have h := extract_of_mask h 0 8
    rwa [show (0xF0FF#16).extractLsb' 0 8 = BitVec.allOnes 8 by decide, BitVec.and_allOnes] at h

end Sys2Proof
end

