-- ==== Sys2Proof/Laws/Framebuffer.lean ====
section
/-! SUPPORT. The framebuffer: reading a pixel after each operation, and what drawing a sprite does to every pixel and to
the collision flag (spec/41_display.md R152 to R160). -/

namespace Sys2Proof.Machine

@[simp] theorem pixel_blank (r : Fin 32) (c : Fin 64) : pixel blankFramebuffer r c = false := by
  simp [pixel, blankFramebuffer]

theorem pixel_setPixel (fb : Framebuffer) (r r' : Fin 32) (c c' : Fin 64) (b : Bool) :
    pixel (setPixel fb r c b) r' c' = if r' = r ∧ c' = c then b else pixel fb r' c' := by
  unfold pixel setPixel
  by_cases hr : r' = r
  · subst hr
    by_cases hc : c' = c
    · subst hc
      simp
    · have : ¬ c.val = c'.val := fun e => hc (Fin.ext e.symm)
      simp [hc, this]
  · have : ¬ r.val = r'.val := fun e => hr (Fin.ext e.symm)
    simp [hr, this]

/-- Two framebuffers with the same pixels are the same. -/
theorem framebuffer_ext {f g : Framebuffer} (h : ∀ r c, pixel f r c = pixel g r c) : f = g := by
  apply Vector.ext
  intro r hr
  apply Vector.ext
  intro c hc
  exact h ⟨r, hr⟩ ⟨c, hc⟩

theorem pixel_togglePixel (d : Drawing) (r r' : Fin 32) (c c' : Fin 64) :
    pixel (togglePixel d r c).1 r' c' = (pixel d.1 r' c' ^^ decide (r' = r ∧ c' = c)) := by
  simp only [togglePixel, pixel_setPixel]
  by_cases h : r' = r ∧ c' = c
  · obtain ⟨rfl, rfl⟩ := h
    simp
  · simp [h]

/-! One sprite row. -/

/-- Some of the sprite columns `ks` of the byte `b`, drawn from column `xs`, is set and lands on screen column `c`. -/
def columnsHit (ks : List Nat) (b : Byte) (xs : Nat) (c : Fin 64) : Bool :=
  ks.any fun k => spriteBit b k && decide (c = screenCol (xs + k))

theorem columnsHit_iff {ks : List Nat} {b : Byte} {xs : Nat} {c : Fin 64} :
    columnsHit ks b xs c = true ↔ ∃ k ∈ ks, spriteBit b k = true ∧ c = screenCol (xs + k) := by
  simp [columnsHit]

/-- The eight sprite columns land on distinct screen columns (R160). -/
theorem column_injective {xs k j : Nat} (hk : k < 8) (hj : j < 8)
    (h : screenCol (xs + k) = screenCol (xs + j)) : k = j := by
  have := congrArg Fin.val h
  simp [screenCol] at this
  omega

/-- Drawing the columns `ks` of one byte: the pixels. -/
theorem pixel_foldl (b : Byte) (xs : Nat) (row r : Fin 32) (c : Fin 64) (ks : List Nat) (hnd : ks.Nodup)
    (h8 : ∀ k ∈ ks, k < 8) (d : Drawing) :
    pixel (ks.foldl (fun d c => if spriteBit b c then togglePixel d row (screenCol (xs + c)) else d) d).1 r c =
      (pixel d.1 r c ^^ (decide (r = row) && columnsHit ks b xs c)) := by
  induction ks generalizing d with
  | nil => simp [columnsHit]
  | cons k ks ih =>
    have hnd' := List.nodup_cons.mp hnd
    rw [List.foldl_cons, ih hnd'.2 (fun j hj => h8 j (by simp [hj]))]
    by_cases hb : spriteBit b k = true
    · simp only [hb, if_true, pixel_togglePixel]
      have hx : c = screenCol (xs + k) → columnsHit ks b xs c = false := by
        intro hc
        rw [Bool.eq_false_iff]
        intro hh
        obtain ⟨j, hj, -, hcj⟩ := columnsHit_iff.mp hh
        exact hnd'.1 (column_injective (h8 k (by simp)) (h8 j (by simp [hj])) (hc.symm.trans hcj) ▸ hj)
      have hcons : columnsHit (k :: ks) b xs c = (decide (c = screenCol (xs + k)) || columnsHit ks b xs c) := by
        simp [columnsHit, hb]
      rw [hcons]
      by_cases hr : r = row
      · by_cases hc : c = screenCol (xs + k)
        · rw [hx hc]
          simp [hr, hc]
        · simp [hr, hc]
      · simp [hr]
    · simp [columnsHit, hb]

/-- Drawing the columns `ks` of one byte: the collision flag. -/
theorem coll_foldl (b : Byte) (xs : Nat) (row : Fin 32) (ks : List Nat) (hnd : ks.Nodup) (h8 : ∀ k ∈ ks, k < 8)
    (d : Drawing) :
    (ks.foldl (fun d c => if spriteBit b c then togglePixel d row (screenCol (xs + c)) else d) d).2 = true ↔
      d.2 = true ∨ ∃ c, columnsHit ks b xs c = true ∧ pixel d.1 row c = true := by
  induction ks generalizing d with
  | nil => simp [columnsHit]
  | cons k ks ih =>
    have hnd' := List.nodup_cons.mp hnd
    rw [List.foldl_cons, ih hnd'.2 (fun j hj => h8 j (by simp [hj]))]
    by_cases hb : spriteBit b k = true
    · simp only [hb, if_true, pixel_togglePixel, columnsHit_iff, List.mem_cons]
      constructor
      · rintro (h | ⟨c, ⟨j, hj, hbj, rfl⟩, h⟩)
        · simp only [togglePixel, Bool.or_eq_true] at h
          rcases h with h | h
          · exact .inl h
          · exact .inr ⟨_, ⟨k, .inl rfl, hb, rfl⟩, h⟩
        · have hne : screenCol (xs + j) ≠ screenCol (xs + k) := fun e =>
            hnd'.1 (column_injective (h8 j (by simp [hj])) (h8 k (by simp)) e ▸ hj)
          exact .inr ⟨_, ⟨j, .inr hj, hbj, rfl⟩, by simpa [hne] using h⟩
      · rintro (h | ⟨c, ⟨j, rfl | hj, hbj, rfl⟩, h⟩)
        · exact .inl (by simp [togglePixel, h])
        · exact .inl (by simp [togglePixel, h])
        · have hne : screenCol (xs + j) ≠ screenCol (xs + k) := fun e =>
            hnd'.1 (column_injective (h8 j (by simp [hj])) (h8 k (by simp)) e ▸ hj)
          exact .inr ⟨_, ⟨j, hj, hbj, rfl⟩, by simpa [hne] using h⟩
    · have hcons : ∀ c, columnsHit (k :: ks) b xs c = columnsHit ks b xs c := by
        intro c
        simp [columnsHit, hb]
      simp [hb, hcons]

/-- Some set sprite column of the byte lands on screen column `c`. -/
def rowHit (b : Byte) (xs : Nat) (c : Fin 64) : Bool := columnsHit (List.range 8) b xs c

theorem rowHit_iff {b : Byte} {xs : Nat} {c : Fin 64} :
    rowHit b xs c = true ↔ ∃ k, k < 8 ∧ spriteBit b k = true ∧ c = screenCol (xs + k) := by
  simp [rowHit, columnsHit_iff]

theorem pixel_drawByte (b : Byte) (xs : Nat) (row r : Fin 32) (c : Fin 64) (d : Drawing) :
    pixel (drawByte b xs row d).1 r c = (pixel d.1 r c ^^ (decide (r = row) && rowHit b xs c)) :=
  pixel_foldl b xs row r c _ List.nodup_range (by simp) d

theorem coll_drawByte (b : Byte) (xs : Nat) (row : Fin 32) (d : Drawing) :
    (drawByte b xs row d).2 = true ↔ d.2 = true ∨ ∃ c, rowHit b xs c = true ∧ pixel d.1 row c = true :=
  coll_foldl b xs row _ List.nodup_range (by simp) d

/-! The whole sprite. -/

/-- A set bit of the sprite, drawn from column `xs` and row `y`, lands on the pixel at row `r`, column `c` (R154). -/
def spriteHit (bytes : List Byte) (xs y : Nat) (r : Fin 32) (c : Fin 64) : Bool :=
  match bytes with
  | [] => false
  | b :: rest => (decide (r = screenRow y) && rowHit b xs c) || spriteHit rest xs (y + 1) r c

theorem spriteHit_iff {bytes : List Byte} {xs y : Nat} {r : Fin 32} {c : Fin 64} :
    spriteHit bytes xs y r c = true ↔
      ∃ j, ∃ h : j < bytes.length, ∃ k, k < 8 ∧ spriteBit bytes[j] k = true ∧
        r = screenRow (y + j) ∧ c = screenCol (xs + k) := by
  induction bytes generalizing y with
  | nil => simp [spriteHit]
  | cons b rest ih =>
    simp only [spriteHit, Bool.or_eq_true, Bool.and_eq_true, decide_eq_true_eq, rowHit_iff, ih]
    constructor
    · rintro (⟨hr, k, hk, hb, hc⟩ | ⟨j, hj, k, hk, hb, hr, hc⟩)
      · exact ⟨0, by simp, k, hk, by simpa using hb, by simpa using hr, hc⟩
      · exact ⟨j + 1, by simpa using hj, k, hk, by simpa using hb, by rw [hr]; congr 1; omega, hc⟩
    · rintro ⟨j, hj, k, hk, hb, hr, hc⟩
      cases j with
      | zero => exact .inl ⟨by simpa using hr, k, hk, by simpa using hb, hc⟩
      | succ j =>
        exact .inr ⟨j, by simpa using hj, k, hk, by simpa using hb, by rw [hr]; congr 1; omega, hc⟩

/-- At most 32 rows land on distinct screen rows (R160). -/
theorem spriteHit_other_row {bytes : List Byte} {xs y : Nat} {c : Fin 64} (hl : bytes.length < 32) :
    spriteHit bytes xs (y + 1) (screenRow y) c = false := by
  rw [Bool.eq_false_iff]
  intro h
  obtain ⟨j, hj, -, -, -, hr, -⟩ := spriteHit_iff.mp h
  have := congrArg Fin.val hr
  simp [screenRow] at this
  omega

/-- Everything drawing a sprite of at most 32 rows does to the pixels. -/
theorem pixel_drawRows (bytes : List Byte) (xs y : Nat) (r : Fin 32) (c : Fin 64) (d : Drawing)
    (hl : bytes.length ≤ 32) :
    pixel (drawRows bytes xs y d).1 r c = (pixel d.1 r c ^^ spriteHit bytes xs y r c) := by
  induction bytes generalizing y d with
  | nil => simp [drawRows, spriteHit]
  | cons b rest ih =>
    simp only [List.length_cons] at hl
    rw [drawRows, ih _ _ (by omega), pixel_drawByte, spriteHit]
    by_cases hr : r = screenRow y
    · subst hr
      simp [spriteHit_other_row (show rest.length < 32 by omega)]
    · simp [hr]

/-- Everything drawing a sprite of at most 32 rows does to the collision flag (R155). -/
theorem coll_drawRows (bytes : List Byte) (xs y : Nat) (d : Drawing) (hl : bytes.length ≤ 32) :
    (drawRows bytes xs y d).2 = true ↔
      d.2 = true ∨ ∃ r c, spriteHit bytes xs y r c = true ∧ pixel d.1 r c = true := by
  induction bytes generalizing y d with
  | nil => simp [drawRows, spriteHit]
  | cons b rest ih =>
    simp only [List.length_cons] at hl
    rw [drawRows, ih _ _ (by omega), coll_drawByte]
    constructor
    · rintro ((h | ⟨c, hc, hp⟩) | ⟨r, c, hh, hp⟩)
      · exact .inl h
      · exact .inr ⟨_, c, by simp [spriteHit, hc], hp⟩
      · have hr : r ≠ screenRow y := by
          rintro rfl
          rw [spriteHit_other_row (by omega)] at hh
          exact absurd hh (by simp)
        exact .inr ⟨r, c, by simp [spriteHit, hh], by simpa [pixel_drawByte, hr] using hp⟩
    · rintro (h | ⟨r, c, hh, hp⟩)
      · exact .inl (.inl h)
      · simp only [spriteHit, Bool.or_eq_true, Bool.and_eq_true, decide_eq_true_eq] at hh
        rcases hh with ⟨rfl, hc⟩ | hh
        · exact .inl (.inr ⟨c, hc, hp⟩)
        · have hr : r ≠ screenRow y := by
            rintro rfl
            rw [spriteHit_other_row (by omega)] at hh
            exact absurd hh (by simp)
          exact .inr ⟨r, c, hh, by simpa [pixel_drawByte, hr] using hp⟩

end Sys2Proof.Machine
end

