-- ==== Sys2Proof/Laws/State.lean ====
section
/-! SUPPORT. One lemma per field per update, and for each update the views of the state it leaves alone. Provers cite
these and never unfold an update. -/

namespace Sys2Proof.Machine

/-! `setMem` -/

@[simp] theorem setMem_mem (s : State) (x : Memory) : (s.setMem x).mem = x := rfl
@[simp] theorem setMem_v (s : State) (x : Memory) : (s.setMem x).v = s.v := rfl
@[simp] theorem setMem_i (s : State) (x : Memory) : (s.setMem x).i = s.i := rfl
@[simp] theorem setMem_pc (s : State) (x : Memory) : (s.setMem x).pc = s.pc := rfl
@[simp] theorem setMem_sp (s : State) (x : Memory) : (s.setMem x).sp = s.sp := rfl
@[simp] theorem setMem_stack (s : State) (x : Memory) : (s.setMem x).stack = s.stack := rfl
@[simp] theorem setMem_dt (s : State) (x : Memory) : (s.setMem x).dt = s.dt := rfl
@[simp] theorem setMem_st (s : State) (x : Memory) : (s.setMem x).st = s.st := rfl
@[simp] theorem setMem_fb (s : State) (x : Memory) : (s.setMem x).fb = s.fb := rfl
@[simp] theorem setMem_disposed (s : State) (x : Memory) : (s.setMem x).disposed = s.disposed := rfl
@[simp] theorem setMem_mode (s : State) (x : Memory) : (s.setMem x).mode = s.mode := rfl
@[simp] theorem setMem_fault (s : State) (x : Memory) : (s.setMem x).fault = s.fault := rfl
@[simp] theorem setMem_params (s : State) (x : Memory) : (s.setMem x).params = s.params := rfl
@[simp] theorem setMem_draws (s : State) (x : Memory) : (s.setMem x).draws = s.draws := rfl
@[simp] theorem setMem_stepped (s : State) (x : Memory) : (s.setMem x).stepped = s.stepped := rfl
@[simp] theorem setMem_reg (s : State) (x : Memory) (z : RegNum) : (s.setMem x).reg z = s.reg z := rfl

/-! `setRegs` -/

@[simp] theorem setRegs_mem (s : State) (x : Vector Byte 16) : (s.setRegs x).mem = s.mem := rfl
@[simp] theorem setRegs_v (s : State) (x : Vector Byte 16) : (s.setRegs x).v = x := rfl
@[simp] theorem setRegs_i (s : State) (x : Vector Byte 16) : (s.setRegs x).i = s.i := rfl
@[simp] theorem setRegs_pc (s : State) (x : Vector Byte 16) : (s.setRegs x).pc = s.pc := rfl
@[simp] theorem setRegs_sp (s : State) (x : Vector Byte 16) : (s.setRegs x).sp = s.sp := rfl
@[simp] theorem setRegs_stack (s : State) (x : Vector Byte 16) : (s.setRegs x).stack = s.stack := rfl
@[simp] theorem setRegs_dt (s : State) (x : Vector Byte 16) : (s.setRegs x).dt = s.dt := rfl
@[simp] theorem setRegs_st (s : State) (x : Vector Byte 16) : (s.setRegs x).st = s.st := rfl
@[simp] theorem setRegs_fb (s : State) (x : Vector Byte 16) : (s.setRegs x).fb = s.fb := rfl
@[simp] theorem setRegs_disposed (s : State) (x : Vector Byte 16) : (s.setRegs x).disposed = s.disposed := rfl
@[simp] theorem setRegs_mode (s : State) (x : Vector Byte 16) : (s.setRegs x).mode = s.mode := rfl
@[simp] theorem setRegs_fault (s : State) (x : Vector Byte 16) : (s.setRegs x).fault = s.fault := rfl
@[simp] theorem setRegs_params (s : State) (x : Vector Byte 16) : (s.setRegs x).params = s.params := rfl
@[simp] theorem setRegs_draws (s : State) (x : Vector Byte 16) : (s.setRegs x).draws = s.draws := rfl
@[simp] theorem setRegs_stepped (s : State) (x : Vector Byte 16) : (s.setRegs x).stepped = s.stepped := rfl
@[simp] theorem setRegs_byteAt (s : State) (x : Vector Byte 16) (a : Nat) : (s.setRegs x).byteAt a = s.byteAt a := rfl

/-! `setI` -/

@[simp] theorem setI_mem (s : State) (x : Word) : (s.setI x).mem = s.mem := rfl
@[simp] theorem setI_v (s : State) (x : Word) : (s.setI x).v = s.v := rfl
@[simp] theorem setI_i (s : State) (x : Word) : (s.setI x).i = x := rfl
@[simp] theorem setI_pc (s : State) (x : Word) : (s.setI x).pc = s.pc := rfl
@[simp] theorem setI_sp (s : State) (x : Word) : (s.setI x).sp = s.sp := rfl
@[simp] theorem setI_stack (s : State) (x : Word) : (s.setI x).stack = s.stack := rfl
@[simp] theorem setI_dt (s : State) (x : Word) : (s.setI x).dt = s.dt := rfl
@[simp] theorem setI_st (s : State) (x : Word) : (s.setI x).st = s.st := rfl
@[simp] theorem setI_fb (s : State) (x : Word) : (s.setI x).fb = s.fb := rfl
@[simp] theorem setI_disposed (s : State) (x : Word) : (s.setI x).disposed = s.disposed := rfl
@[simp] theorem setI_mode (s : State) (x : Word) : (s.setI x).mode = s.mode := rfl
@[simp] theorem setI_fault (s : State) (x : Word) : (s.setI x).fault = s.fault := rfl
@[simp] theorem setI_params (s : State) (x : Word) : (s.setI x).params = s.params := rfl
@[simp] theorem setI_draws (s : State) (x : Word) : (s.setI x).draws = s.draws := rfl
@[simp] theorem setI_stepped (s : State) (x : Word) : (s.setI x).stepped = s.stepped := rfl
@[simp] theorem setI_reg (s : State) (x : Word) (z : RegNum) : (s.setI x).reg z = s.reg z := rfl
@[simp] theorem setI_byteAt (s : State) (x : Word) (a : Nat) : (s.setI x).byteAt a = s.byteAt a := rfl

/-! `setPc` -/

@[simp] theorem setPc_mem (s : State) (x : Word) : (s.setPc x).mem = s.mem := rfl
@[simp] theorem setPc_v (s : State) (x : Word) : (s.setPc x).v = s.v := rfl
@[simp] theorem setPc_i (s : State) (x : Word) : (s.setPc x).i = s.i := rfl
@[simp] theorem setPc_pc (s : State) (x : Word) : (s.setPc x).pc = x := rfl
@[simp] theorem setPc_sp (s : State) (x : Word) : (s.setPc x).sp = s.sp := rfl
@[simp] theorem setPc_stack (s : State) (x : Word) : (s.setPc x).stack = s.stack := rfl
@[simp] theorem setPc_dt (s : State) (x : Word) : (s.setPc x).dt = s.dt := rfl
@[simp] theorem setPc_st (s : State) (x : Word) : (s.setPc x).st = s.st := rfl
@[simp] theorem setPc_fb (s : State) (x : Word) : (s.setPc x).fb = s.fb := rfl
@[simp] theorem setPc_disposed (s : State) (x : Word) : (s.setPc x).disposed = s.disposed := rfl
@[simp] theorem setPc_mode (s : State) (x : Word) : (s.setPc x).mode = s.mode := rfl
@[simp] theorem setPc_fault (s : State) (x : Word) : (s.setPc x).fault = s.fault := rfl
@[simp] theorem setPc_params (s : State) (x : Word) : (s.setPc x).params = s.params := rfl
@[simp] theorem setPc_draws (s : State) (x : Word) : (s.setPc x).draws = s.draws := rfl
@[simp] theorem setPc_stepped (s : State) (x : Word) : (s.setPc x).stepped = s.stepped := rfl
@[simp] theorem setPc_reg (s : State) (x : Word) (z : RegNum) : (s.setPc x).reg z = s.reg z := rfl
@[simp] theorem setPc_byteAt (s : State) (x : Word) (a : Nat) : (s.setPc x).byteAt a = s.byteAt a := rfl

/-! `setSp` -/

@[simp] theorem setSp_mem (s : State) (x : StackPtr) : (s.setSp x).mem = s.mem := rfl
@[simp] theorem setSp_v (s : State) (x : StackPtr) : (s.setSp x).v = s.v := rfl
@[simp] theorem setSp_i (s : State) (x : StackPtr) : (s.setSp x).i = s.i := rfl
@[simp] theorem setSp_pc (s : State) (x : StackPtr) : (s.setSp x).pc = s.pc := rfl
@[simp] theorem setSp_sp (s : State) (x : StackPtr) : (s.setSp x).sp = x := rfl
@[simp] theorem setSp_stack (s : State) (x : StackPtr) : (s.setSp x).stack = s.stack := rfl
@[simp] theorem setSp_dt (s : State) (x : StackPtr) : (s.setSp x).dt = s.dt := rfl
@[simp] theorem setSp_st (s : State) (x : StackPtr) : (s.setSp x).st = s.st := rfl
@[simp] theorem setSp_fb (s : State) (x : StackPtr) : (s.setSp x).fb = s.fb := rfl
@[simp] theorem setSp_disposed (s : State) (x : StackPtr) : (s.setSp x).disposed = s.disposed := rfl
@[simp] theorem setSp_mode (s : State) (x : StackPtr) : (s.setSp x).mode = s.mode := rfl
@[simp] theorem setSp_fault (s : State) (x : StackPtr) : (s.setSp x).fault = s.fault := rfl
@[simp] theorem setSp_params (s : State) (x : StackPtr) : (s.setSp x).params = s.params := rfl
@[simp] theorem setSp_draws (s : State) (x : StackPtr) : (s.setSp x).draws = s.draws := rfl
@[simp] theorem setSp_stepped (s : State) (x : StackPtr) : (s.setSp x).stepped = s.stepped := rfl
@[simp] theorem setSp_reg (s : State) (x : StackPtr) (z : RegNum) : (s.setSp x).reg z = s.reg z := rfl
@[simp] theorem setSp_byteAt (s : State) (x : StackPtr) (a : Nat) : (s.setSp x).byteAt a = s.byteAt a := rfl

/-! `setStack` -/

@[simp] theorem setStack_mem (s : State) (x : Vector Word 16) : (s.setStack x).mem = s.mem := rfl
@[simp] theorem setStack_v (s : State) (x : Vector Word 16) : (s.setStack x).v = s.v := rfl
@[simp] theorem setStack_i (s : State) (x : Vector Word 16) : (s.setStack x).i = s.i := rfl
@[simp] theorem setStack_pc (s : State) (x : Vector Word 16) : (s.setStack x).pc = s.pc := rfl
@[simp] theorem setStack_sp (s : State) (x : Vector Word 16) : (s.setStack x).sp = s.sp := rfl
@[simp] theorem setStack_stack (s : State) (x : Vector Word 16) : (s.setStack x).stack = x := rfl
@[simp] theorem setStack_dt (s : State) (x : Vector Word 16) : (s.setStack x).dt = s.dt := rfl
@[simp] theorem setStack_st (s : State) (x : Vector Word 16) : (s.setStack x).st = s.st := rfl
@[simp] theorem setStack_fb (s : State) (x : Vector Word 16) : (s.setStack x).fb = s.fb := rfl
@[simp] theorem setStack_disposed (s : State) (x : Vector Word 16) : (s.setStack x).disposed = s.disposed := rfl
@[simp] theorem setStack_mode (s : State) (x : Vector Word 16) : (s.setStack x).mode = s.mode := rfl
@[simp] theorem setStack_fault (s : State) (x : Vector Word 16) : (s.setStack x).fault = s.fault := rfl
@[simp] theorem setStack_params (s : State) (x : Vector Word 16) : (s.setStack x).params = s.params := rfl
@[simp] theorem setStack_draws (s : State) (x : Vector Word 16) : (s.setStack x).draws = s.draws := rfl
@[simp] theorem setStack_stepped (s : State) (x : Vector Word 16) : (s.setStack x).stepped = s.stepped := rfl
@[simp] theorem setStack_reg (s : State) (x : Vector Word 16) (z : RegNum) : (s.setStack x).reg z = s.reg z := rfl
@[simp] theorem setStack_byteAt (s : State) (x : Vector Word 16) (a : Nat) : (s.setStack x).byteAt a = s.byteAt a := rfl

/-! `setDt` -/

@[simp] theorem setDt_mem (s : State) (x : Byte) : (s.setDt x).mem = s.mem := rfl
@[simp] theorem setDt_v (s : State) (x : Byte) : (s.setDt x).v = s.v := rfl
@[simp] theorem setDt_i (s : State) (x : Byte) : (s.setDt x).i = s.i := rfl
@[simp] theorem setDt_pc (s : State) (x : Byte) : (s.setDt x).pc = s.pc := rfl
@[simp] theorem setDt_sp (s : State) (x : Byte) : (s.setDt x).sp = s.sp := rfl
@[simp] theorem setDt_stack (s : State) (x : Byte) : (s.setDt x).stack = s.stack := rfl
@[simp] theorem setDt_dt (s : State) (x : Byte) : (s.setDt x).dt = x := rfl
@[simp] theorem setDt_st (s : State) (x : Byte) : (s.setDt x).st = s.st := rfl
@[simp] theorem setDt_fb (s : State) (x : Byte) : (s.setDt x).fb = s.fb := rfl
@[simp] theorem setDt_disposed (s : State) (x : Byte) : (s.setDt x).disposed = s.disposed := rfl
@[simp] theorem setDt_mode (s : State) (x : Byte) : (s.setDt x).mode = s.mode := rfl
@[simp] theorem setDt_fault (s : State) (x : Byte) : (s.setDt x).fault = s.fault := rfl
@[simp] theorem setDt_params (s : State) (x : Byte) : (s.setDt x).params = s.params := rfl
@[simp] theorem setDt_draws (s : State) (x : Byte) : (s.setDt x).draws = s.draws := rfl
@[simp] theorem setDt_stepped (s : State) (x : Byte) : (s.setDt x).stepped = s.stepped := rfl
@[simp] theorem setDt_reg (s : State) (x : Byte) (z : RegNum) : (s.setDt x).reg z = s.reg z := rfl
@[simp] theorem setDt_byteAt (s : State) (x : Byte) (a : Nat) : (s.setDt x).byteAt a = s.byteAt a := rfl

/-! `setSt` -/

@[simp] theorem setSt_mem (s : State) (x : Byte) : (s.setSt x).mem = s.mem := rfl
@[simp] theorem setSt_v (s : State) (x : Byte) : (s.setSt x).v = s.v := rfl
@[simp] theorem setSt_i (s : State) (x : Byte) : (s.setSt x).i = s.i := rfl
@[simp] theorem setSt_pc (s : State) (x : Byte) : (s.setSt x).pc = s.pc := rfl
@[simp] theorem setSt_sp (s : State) (x : Byte) : (s.setSt x).sp = s.sp := rfl
@[simp] theorem setSt_stack (s : State) (x : Byte) : (s.setSt x).stack = s.stack := rfl
@[simp] theorem setSt_dt (s : State) (x : Byte) : (s.setSt x).dt = s.dt := rfl
@[simp] theorem setSt_st (s : State) (x : Byte) : (s.setSt x).st = x := rfl
@[simp] theorem setSt_fb (s : State) (x : Byte) : (s.setSt x).fb = s.fb := rfl
@[simp] theorem setSt_disposed (s : State) (x : Byte) : (s.setSt x).disposed = s.disposed := rfl
@[simp] theorem setSt_mode (s : State) (x : Byte) : (s.setSt x).mode = s.mode := rfl
@[simp] theorem setSt_fault (s : State) (x : Byte) : (s.setSt x).fault = s.fault := rfl
@[simp] theorem setSt_params (s : State) (x : Byte) : (s.setSt x).params = s.params := rfl
@[simp] theorem setSt_draws (s : State) (x : Byte) : (s.setSt x).draws = s.draws := rfl
@[simp] theorem setSt_stepped (s : State) (x : Byte) : (s.setSt x).stepped = s.stepped := rfl
@[simp] theorem setSt_reg (s : State) (x : Byte) (z : RegNum) : (s.setSt x).reg z = s.reg z := rfl
@[simp] theorem setSt_byteAt (s : State) (x : Byte) (a : Nat) : (s.setSt x).byteAt a = s.byteAt a := rfl

/-! `setFb` -/

@[simp] theorem setFb_mem (s : State) (x : Framebuffer) : (s.setFb x).mem = s.mem := rfl
@[simp] theorem setFb_v (s : State) (x : Framebuffer) : (s.setFb x).v = s.v := rfl
@[simp] theorem setFb_i (s : State) (x : Framebuffer) : (s.setFb x).i = s.i := rfl
@[simp] theorem setFb_pc (s : State) (x : Framebuffer) : (s.setFb x).pc = s.pc := rfl
@[simp] theorem setFb_sp (s : State) (x : Framebuffer) : (s.setFb x).sp = s.sp := rfl
@[simp] theorem setFb_stack (s : State) (x : Framebuffer) : (s.setFb x).stack = s.stack := rfl
@[simp] theorem setFb_dt (s : State) (x : Framebuffer) : (s.setFb x).dt = s.dt := rfl
@[simp] theorem setFb_st (s : State) (x : Framebuffer) : (s.setFb x).st = s.st := rfl
@[simp] theorem setFb_fb (s : State) (x : Framebuffer) : (s.setFb x).fb = x := rfl
@[simp] theorem setFb_disposed (s : State) (x : Framebuffer) : (s.setFb x).disposed = s.disposed := rfl
@[simp] theorem setFb_mode (s : State) (x : Framebuffer) : (s.setFb x).mode = s.mode := rfl
@[simp] theorem setFb_fault (s : State) (x : Framebuffer) : (s.setFb x).fault = s.fault := rfl
@[simp] theorem setFb_params (s : State) (x : Framebuffer) : (s.setFb x).params = s.params := rfl
@[simp] theorem setFb_draws (s : State) (x : Framebuffer) : (s.setFb x).draws = s.draws := rfl
@[simp] theorem setFb_stepped (s : State) (x : Framebuffer) : (s.setFb x).stepped = s.stepped := rfl
@[simp] theorem setFb_reg (s : State) (x : Framebuffer) (z : RegNum) : (s.setFb x).reg z = s.reg z := rfl
@[simp] theorem setFb_byteAt (s : State) (x : Framebuffer) (a : Nat) : (s.setFb x).byteAt a = s.byteAt a := rfl

/-! `setDisposed` -/

@[simp] theorem setDisposed_mem (s : State) : s.setDisposed.mem = s.mem := rfl
@[simp] theorem setDisposed_v (s : State) : s.setDisposed.v = s.v := rfl
@[simp] theorem setDisposed_i (s : State) : s.setDisposed.i = s.i := rfl
@[simp] theorem setDisposed_pc (s : State) : s.setDisposed.pc = s.pc := rfl
@[simp] theorem setDisposed_sp (s : State) : s.setDisposed.sp = s.sp := rfl
@[simp] theorem setDisposed_stack (s : State) : s.setDisposed.stack = s.stack := rfl
@[simp] theorem setDisposed_dt (s : State) : s.setDisposed.dt = s.dt := rfl
@[simp] theorem setDisposed_st (s : State) : s.setDisposed.st = s.st := rfl
@[simp] theorem setDisposed_fb (s : State) : s.setDisposed.fb = s.fb := rfl
@[simp] theorem setDisposed_disposed (s : State) : s.setDisposed.disposed = true := rfl
@[simp] theorem setDisposed_mode (s : State) : s.setDisposed.mode = s.mode := rfl
@[simp] theorem setDisposed_fault (s : State) : s.setDisposed.fault = s.fault := rfl
@[simp] theorem setDisposed_params (s : State) : s.setDisposed.params = s.params := rfl
@[simp] theorem setDisposed_draws (s : State) : s.setDisposed.draws = s.draws := rfl
@[simp] theorem setDisposed_stepped (s : State) : s.setDisposed.stepped = s.stepped := rfl
@[simp] theorem setDisposed_reg (s : State) (z : RegNum) : s.setDisposed.reg z = s.reg z := rfl
@[simp] theorem setDisposed_byteAt (s : State) (a : Nat) : s.setDisposed.byteAt a = s.byteAt a := rfl

/-! `setMode` -/

@[simp] theorem setMode_mem (s : State) (x : Mode) : (s.setMode x).mem = s.mem := rfl
@[simp] theorem setMode_v (s : State) (x : Mode) : (s.setMode x).v = s.v := rfl
@[simp] theorem setMode_i (s : State) (x : Mode) : (s.setMode x).i = s.i := rfl
@[simp] theorem setMode_pc (s : State) (x : Mode) : (s.setMode x).pc = s.pc := rfl
@[simp] theorem setMode_sp (s : State) (x : Mode) : (s.setMode x).sp = s.sp := rfl
@[simp] theorem setMode_stack (s : State) (x : Mode) : (s.setMode x).stack = s.stack := rfl
@[simp] theorem setMode_dt (s : State) (x : Mode) : (s.setMode x).dt = s.dt := rfl
@[simp] theorem setMode_st (s : State) (x : Mode) : (s.setMode x).st = s.st := rfl
@[simp] theorem setMode_fb (s : State) (x : Mode) : (s.setMode x).fb = s.fb := rfl
@[simp] theorem setMode_disposed (s : State) (x : Mode) : (s.setMode x).disposed = s.disposed := rfl
@[simp] theorem setMode_mode (s : State) (x : Mode) : (s.setMode x).mode = x := rfl
@[simp] theorem setMode_fault (s : State) (x : Mode) : (s.setMode x).fault = s.fault := rfl
@[simp] theorem setMode_params (s : State) (x : Mode) : (s.setMode x).params = s.params := rfl
@[simp] theorem setMode_draws (s : State) (x : Mode) : (s.setMode x).draws = s.draws := rfl
@[simp] theorem setMode_stepped (s : State) (x : Mode) : (s.setMode x).stepped = s.stepped := rfl
@[simp] theorem setMode_reg (s : State) (x : Mode) (z : RegNum) : (s.setMode x).reg z = s.reg z := rfl
@[simp] theorem setMode_byteAt (s : State) (x : Mode) (a : Nat) : (s.setMode x).byteAt a = s.byteAt a := rfl

/-! `latch` -/

@[simp] theorem latch_mem (s : State) (x : StepFault) : (s.latch x).mem = s.mem := rfl
@[simp] theorem latch_v (s : State) (x : StepFault) : (s.latch x).v = s.v := rfl
@[simp] theorem latch_i (s : State) (x : StepFault) : (s.latch x).i = s.i := rfl
@[simp] theorem latch_pc (s : State) (x : StepFault) : (s.latch x).pc = s.pc := rfl
@[simp] theorem latch_sp (s : State) (x : StepFault) : (s.latch x).sp = s.sp := rfl
@[simp] theorem latch_stack (s : State) (x : StepFault) : (s.latch x).stack = s.stack := rfl
@[simp] theorem latch_dt (s : State) (x : StepFault) : (s.latch x).dt = s.dt := rfl
@[simp] theorem latch_st (s : State) (x : StepFault) : (s.latch x).st = s.st := rfl
@[simp] theorem latch_fb (s : State) (x : StepFault) : (s.latch x).fb = s.fb := rfl
@[simp] theorem latch_disposed (s : State) (x : StepFault) : (s.latch x).disposed = s.disposed := rfl
@[simp] theorem latch_mode (s : State) (x : StepFault) : (s.latch x).mode = s.mode := rfl
@[simp] theorem latch_fault (s : State) (x : StepFault) : (s.latch x).fault = some x := rfl
@[simp] theorem latch_params (s : State) (x : StepFault) : (s.latch x).params = s.params := rfl
@[simp] theorem latch_draws (s : State) (x : StepFault) : (s.latch x).draws = s.draws := rfl
@[simp] theorem latch_stepped (s : State) (x : StepFault) : (s.latch x).stepped = s.stepped := rfl
@[simp] theorem latch_reg (s : State) (x : StepFault) (z : RegNum) : (s.latch x).reg z = s.reg z := rfl
@[simp] theorem latch_byteAt (s : State) (x : StepFault) (a : Nat) : (s.latch x).byteAt a = s.byteAt a := rfl

/-! `setStepped` -/

@[simp] theorem setStepped_mem (s : State) : s.setStepped.mem = s.mem := rfl
@[simp] theorem setStepped_v (s : State) : s.setStepped.v = s.v := rfl
@[simp] theorem setStepped_i (s : State) : s.setStepped.i = s.i := rfl
@[simp] theorem setStepped_pc (s : State) : s.setStepped.pc = s.pc := rfl
@[simp] theorem setStepped_sp (s : State) : s.setStepped.sp = s.sp := rfl
@[simp] theorem setStepped_stack (s : State) : s.setStepped.stack = s.stack := rfl
@[simp] theorem setStepped_dt (s : State) : s.setStepped.dt = s.dt := rfl
@[simp] theorem setStepped_st (s : State) : s.setStepped.st = s.st := rfl
@[simp] theorem setStepped_fb (s : State) : s.setStepped.fb = s.fb := rfl
@[simp] theorem setStepped_disposed (s : State) : s.setStepped.disposed = s.disposed := rfl
@[simp] theorem setStepped_mode (s : State) : s.setStepped.mode = s.mode := rfl
@[simp] theorem setStepped_fault (s : State) : s.setStepped.fault = s.fault := rfl
@[simp] theorem setStepped_params (s : State) : s.setStepped.params = s.params := rfl
@[simp] theorem setStepped_draws (s : State) : s.setStepped.draws = s.draws := rfl
@[simp] theorem setStepped_stepped (s : State) : s.setStepped.stepped = true := rfl
@[simp] theorem setStepped_reg (s : State) (z : RegNum) : s.setStepped.reg z = s.reg z := rfl
@[simp] theorem setStepped_byteAt (s : State) (a : Nat) : s.setStepped.byteAt a = s.byteAt a := rfl

/-! `countDraw` -/

@[simp] theorem countDraw_mem (s : State) : s.countDraw.mem = s.mem := rfl
@[simp] theorem countDraw_v (s : State) : s.countDraw.v = s.v := rfl
@[simp] theorem countDraw_i (s : State) : s.countDraw.i = s.i := rfl
@[simp] theorem countDraw_pc (s : State) : s.countDraw.pc = s.pc := rfl
@[simp] theorem countDraw_sp (s : State) : s.countDraw.sp = s.sp := rfl
@[simp] theorem countDraw_stack (s : State) : s.countDraw.stack = s.stack := rfl
@[simp] theorem countDraw_dt (s : State) : s.countDraw.dt = s.dt := rfl
@[simp] theorem countDraw_st (s : State) : s.countDraw.st = s.st := rfl
@[simp] theorem countDraw_fb (s : State) : s.countDraw.fb = s.fb := rfl
@[simp] theorem countDraw_disposed (s : State) : s.countDraw.disposed = s.disposed := rfl
@[simp] theorem countDraw_mode (s : State) : s.countDraw.mode = s.mode := rfl
@[simp] theorem countDraw_fault (s : State) : s.countDraw.fault = s.fault := rfl
@[simp] theorem countDraw_params (s : State) : s.countDraw.params = s.params := rfl
@[simp] theorem countDraw_draws (s : State) : s.countDraw.draws = s.draws + 1 := rfl
@[simp] theorem countDraw_stepped (s : State) : s.countDraw.stepped = s.stepped := rfl
@[simp] theorem countDraw_reg (s : State) (z : RegNum) : s.countDraw.reg z = s.reg z := rfl
@[simp] theorem countDraw_byteAt (s : State) (a : Nat) : s.countDraw.byteAt a = s.byteAt a := rfl

/-! `setReg` -/

@[simp] theorem setReg_mem (s : State) (x : RegNum) (b : Byte) : (s.setReg x b).mem = s.mem := rfl
@[simp] theorem setReg_i (s : State) (x : RegNum) (b : Byte) : (s.setReg x b).i = s.i := rfl
@[simp] theorem setReg_pc (s : State) (x : RegNum) (b : Byte) : (s.setReg x b).pc = s.pc := rfl
@[simp] theorem setReg_sp (s : State) (x : RegNum) (b : Byte) : (s.setReg x b).sp = s.sp := rfl
@[simp] theorem setReg_stack (s : State) (x : RegNum) (b : Byte) : (s.setReg x b).stack = s.stack := rfl
@[simp] theorem setReg_dt (s : State) (x : RegNum) (b : Byte) : (s.setReg x b).dt = s.dt := rfl
@[simp] theorem setReg_st (s : State) (x : RegNum) (b : Byte) : (s.setReg x b).st = s.st := rfl
@[simp] theorem setReg_fb (s : State) (x : RegNum) (b : Byte) : (s.setReg x b).fb = s.fb := rfl
@[simp] theorem setReg_disposed (s : State) (x : RegNum) (b : Byte) : (s.setReg x b).disposed = s.disposed := rfl
@[simp] theorem setReg_mode (s : State) (x : RegNum) (b : Byte) : (s.setReg x b).mode = s.mode := rfl
@[simp] theorem setReg_fault (s : State) (x : RegNum) (b : Byte) : (s.setReg x b).fault = s.fault := rfl
@[simp] theorem setReg_params (s : State) (x : RegNum) (b : Byte) : (s.setReg x b).params = s.params := rfl
@[simp] theorem setReg_draws (s : State) (x : RegNum) (b : Byte) : (s.setReg x b).draws = s.draws := rfl
@[simp] theorem setReg_stepped (s : State) (x : RegNum) (b : Byte) : (s.setReg x b).stepped = s.stepped := rfl
@[simp] theorem setReg_byteAt (s : State) (x : RegNum) (b : Byte) (q : Nat) : (s.setReg x b).byteAt q = s.byteAt q := rfl

/-! `setRegFlag` -/

@[simp] theorem setRegFlag_mem (s : State) (x : RegNum) (r : Byte × Bool) : (s.setRegFlag x r).mem = s.mem := rfl
@[simp] theorem setRegFlag_i (s : State) (x : RegNum) (r : Byte × Bool) : (s.setRegFlag x r).i = s.i := rfl
@[simp] theorem setRegFlag_pc (s : State) (x : RegNum) (r : Byte × Bool) : (s.setRegFlag x r).pc = s.pc := rfl
@[simp] theorem setRegFlag_sp (s : State) (x : RegNum) (r : Byte × Bool) : (s.setRegFlag x r).sp = s.sp := rfl
@[simp] theorem setRegFlag_stack (s : State) (x : RegNum) (r : Byte × Bool) : (s.setRegFlag x r).stack = s.stack := rfl
@[simp] theorem setRegFlag_dt (s : State) (x : RegNum) (r : Byte × Bool) : (s.setRegFlag x r).dt = s.dt := rfl
@[simp] theorem setRegFlag_st (s : State) (x : RegNum) (r : Byte × Bool) : (s.setRegFlag x r).st = s.st := rfl
@[simp] theorem setRegFlag_fb (s : State) (x : RegNum) (r : Byte × Bool) : (s.setRegFlag x r).fb = s.fb := rfl
@[simp] theorem setRegFlag_disposed (s : State) (x : RegNum) (r : Byte × Bool) : (s.setRegFlag x r).disposed = s.disposed := rfl
@[simp] theorem setRegFlag_mode (s : State) (x : RegNum) (r : Byte × Bool) : (s.setRegFlag x r).mode = s.mode := rfl
@[simp] theorem setRegFlag_fault (s : State) (x : RegNum) (r : Byte × Bool) : (s.setRegFlag x r).fault = s.fault := rfl
@[simp] theorem setRegFlag_params (s : State) (x : RegNum) (r : Byte × Bool) : (s.setRegFlag x r).params = s.params := rfl
@[simp] theorem setRegFlag_draws (s : State) (x : RegNum) (r : Byte × Bool) : (s.setRegFlag x r).draws = s.draws := rfl
@[simp] theorem setRegFlag_stepped (s : State) (x : RegNum) (r : Byte × Bool) : (s.setRegFlag x r).stepped = s.stepped := rfl
@[simp] theorem setRegFlag_byteAt (s : State) (x : RegNum) (r : Byte × Bool) (q : Nat) : (s.setRegFlag x r).byteAt q = s.byteAt q := rfl

/-! `loadRegs` -/

@[simp] theorem loadRegs_mem (s : State) (x : RegNum) (a : Nat) : (s.loadRegs x a).mem = s.mem := rfl
@[simp] theorem loadRegs_i (s : State) (x : RegNum) (a : Nat) : (s.loadRegs x a).i = s.i := rfl
@[simp] theorem loadRegs_pc (s : State) (x : RegNum) (a : Nat) : (s.loadRegs x a).pc = s.pc := rfl
@[simp] theorem loadRegs_sp (s : State) (x : RegNum) (a : Nat) : (s.loadRegs x a).sp = s.sp := rfl
@[simp] theorem loadRegs_stack (s : State) (x : RegNum) (a : Nat) : (s.loadRegs x a).stack = s.stack := rfl
@[simp] theorem loadRegs_dt (s : State) (x : RegNum) (a : Nat) : (s.loadRegs x a).dt = s.dt := rfl
@[simp] theorem loadRegs_st (s : State) (x : RegNum) (a : Nat) : (s.loadRegs x a).st = s.st := rfl
@[simp] theorem loadRegs_fb (s : State) (x : RegNum) (a : Nat) : (s.loadRegs x a).fb = s.fb := rfl
@[simp] theorem loadRegs_disposed (s : State) (x : RegNum) (a : Nat) : (s.loadRegs x a).disposed = s.disposed := rfl
@[simp] theorem loadRegs_mode (s : State) (x : RegNum) (a : Nat) : (s.loadRegs x a).mode = s.mode := rfl
@[simp] theorem loadRegs_fault (s : State) (x : RegNum) (a : Nat) : (s.loadRegs x a).fault = s.fault := rfl
@[simp] theorem loadRegs_params (s : State) (x : RegNum) (a : Nat) : (s.loadRegs x a).params = s.params := rfl
@[simp] theorem loadRegs_draws (s : State) (x : RegNum) (a : Nat) : (s.loadRegs x a).draws = s.draws := rfl
@[simp] theorem loadRegs_stepped (s : State) (x : RegNum) (a : Nat) : (s.loadRegs x a).stepped = s.stepped := rfl
@[simp] theorem loadRegs_byteAt (s : State) (x : RegNum) (a : Nat) (q : Nat) : (s.loadRegs x a).byteAt q = s.byteAt q := rfl

/-! `writeByte` -/

@[simp] theorem writeByte_mem (s : State) (a : Nat) (b : Byte) : (s.writeByte a b).mem = memWrite s.params s.mem a b := rfl
@[simp] theorem writeByte_v (s : State) (a : Nat) (b : Byte) : (s.writeByte a b).v = s.v := rfl
@[simp] theorem writeByte_i (s : State) (a : Nat) (b : Byte) : (s.writeByte a b).i = s.i := rfl
@[simp] theorem writeByte_pc (s : State) (a : Nat) (b : Byte) : (s.writeByte a b).pc = s.pc := rfl
@[simp] theorem writeByte_sp (s : State) (a : Nat) (b : Byte) : (s.writeByte a b).sp = s.sp := rfl
@[simp] theorem writeByte_stack (s : State) (a : Nat) (b : Byte) : (s.writeByte a b).stack = s.stack := rfl
@[simp] theorem writeByte_dt (s : State) (a : Nat) (b : Byte) : (s.writeByte a b).dt = s.dt := rfl
@[simp] theorem writeByte_st (s : State) (a : Nat) (b : Byte) : (s.writeByte a b).st = s.st := rfl
@[simp] theorem writeByte_fb (s : State) (a : Nat) (b : Byte) : (s.writeByte a b).fb = s.fb := rfl
@[simp] theorem writeByte_disposed (s : State) (a : Nat) (b : Byte) : (s.writeByte a b).disposed = s.disposed := rfl
@[simp] theorem writeByte_mode (s : State) (a : Nat) (b : Byte) : (s.writeByte a b).mode = s.mode := rfl
@[simp] theorem writeByte_fault (s : State) (a : Nat) (b : Byte) : (s.writeByte a b).fault = s.fault := rfl
@[simp] theorem writeByte_params (s : State) (a : Nat) (b : Byte) : (s.writeByte a b).params = s.params := rfl
@[simp] theorem writeByte_draws (s : State) (a : Nat) (b : Byte) : (s.writeByte a b).draws = s.draws := rfl
@[simp] theorem writeByte_stepped (s : State) (a : Nat) (b : Byte) : (s.writeByte a b).stepped = s.stepped := rfl
@[simp] theorem writeByte_reg (s : State) (a : Nat) (b : Byte) (z : RegNum) : (s.writeByte a b).reg z = s.reg z := rfl

/-! `writeBytes` -/

@[simp] theorem writeBytes_mem (s : State) (a : Nat) (l : List Byte) : (s.writeBytes a l).mem = memWriteBytes s.params s.mem a l := rfl
@[simp] theorem writeBytes_v (s : State) (a : Nat) (l : List Byte) : (s.writeBytes a l).v = s.v := rfl
@[simp] theorem writeBytes_i (s : State) (a : Nat) (l : List Byte) : (s.writeBytes a l).i = s.i := rfl
@[simp] theorem writeBytes_pc (s : State) (a : Nat) (l : List Byte) : (s.writeBytes a l).pc = s.pc := rfl
@[simp] theorem writeBytes_sp (s : State) (a : Nat) (l : List Byte) : (s.writeBytes a l).sp = s.sp := rfl
@[simp] theorem writeBytes_stack (s : State) (a : Nat) (l : List Byte) : (s.writeBytes a l).stack = s.stack := rfl
@[simp] theorem writeBytes_dt (s : State) (a : Nat) (l : List Byte) : (s.writeBytes a l).dt = s.dt := rfl
@[simp] theorem writeBytes_st (s : State) (a : Nat) (l : List Byte) : (s.writeBytes a l).st = s.st := rfl
@[simp] theorem writeBytes_fb (s : State) (a : Nat) (l : List Byte) : (s.writeBytes a l).fb = s.fb := rfl
@[simp] theorem writeBytes_disposed (s : State) (a : Nat) (l : List Byte) : (s.writeBytes a l).disposed = s.disposed := rfl
@[simp] theorem writeBytes_mode (s : State) (a : Nat) (l : List Byte) : (s.writeBytes a l).mode = s.mode := rfl
@[simp] theorem writeBytes_fault (s : State) (a : Nat) (l : List Byte) : (s.writeBytes a l).fault = s.fault := rfl
@[simp] theorem writeBytes_params (s : State) (a : Nat) (l : List Byte) : (s.writeBytes a l).params = s.params := rfl
@[simp] theorem writeBytes_draws (s : State) (a : Nat) (l : List Byte) : (s.writeBytes a l).draws = s.draws := rfl
@[simp] theorem writeBytes_stepped (s : State) (a : Nat) (l : List Byte) : (s.writeBytes a l).stepped = s.stepped := rfl
@[simp] theorem writeBytes_reg (s : State) (a : Nat) (l : List Byte) (z : RegNum) : (s.writeBytes a l).reg z = s.reg z := rfl

/-! `advance` -/

@[simp] theorem advance_mem (s : State) : s.advance.mem = s.mem := rfl
@[simp] theorem advance_v (s : State) : s.advance.v = s.v := rfl
@[simp] theorem advance_i (s : State) : s.advance.i = s.i := rfl
@[simp] theorem advance_pc (s : State) : s.advance.pc = s.pc + 2#16 := rfl
@[simp] theorem advance_sp (s : State) : s.advance.sp = s.sp := rfl
@[simp] theorem advance_stack (s : State) : s.advance.stack = s.stack := rfl
@[simp] theorem advance_dt (s : State) : s.advance.dt = s.dt := rfl
@[simp] theorem advance_st (s : State) : s.advance.st = s.st := rfl
@[simp] theorem advance_fb (s : State) : s.advance.fb = s.fb := rfl
@[simp] theorem advance_disposed (s : State) : s.advance.disposed = s.disposed := rfl
@[simp] theorem advance_mode (s : State) : s.advance.mode = s.mode := rfl
@[simp] theorem advance_fault (s : State) : s.advance.fault = s.fault := rfl
@[simp] theorem advance_params (s : State) : s.advance.params = s.params := rfl
@[simp] theorem advance_draws (s : State) : s.advance.draws = s.draws := rfl
@[simp] theorem advance_stepped (s : State) : s.advance.stepped = s.stepped := rfl
@[simp] theorem advance_reg (s : State) (z : RegNum) : s.advance.reg z = s.reg z := rfl
@[simp] theorem advance_byteAt (s : State) (q : Nat) : s.advance.byteAt q = s.byteAt q := rfl

/-! `skipIf` -/

@[simp] theorem skipIf_mem (s : State) (c : Bool) : (s.skipIf c).mem = s.mem := rfl
@[simp] theorem skipIf_v (s : State) (c : Bool) : (s.skipIf c).v = s.v := rfl
@[simp] theorem skipIf_i (s : State) (c : Bool) : (s.skipIf c).i = s.i := rfl
@[simp] theorem skipIf_pc (s : State) (c : Bool) : (s.skipIf c).pc = if c then s.pc + 2#16 else s.pc := rfl
@[simp] theorem skipIf_sp (s : State) (c : Bool) : (s.skipIf c).sp = s.sp := rfl
@[simp] theorem skipIf_stack (s : State) (c : Bool) : (s.skipIf c).stack = s.stack := rfl
@[simp] theorem skipIf_dt (s : State) (c : Bool) : (s.skipIf c).dt = s.dt := rfl
@[simp] theorem skipIf_st (s : State) (c : Bool) : (s.skipIf c).st = s.st := rfl
@[simp] theorem skipIf_fb (s : State) (c : Bool) : (s.skipIf c).fb = s.fb := rfl
@[simp] theorem skipIf_disposed (s : State) (c : Bool) : (s.skipIf c).disposed = s.disposed := rfl
@[simp] theorem skipIf_mode (s : State) (c : Bool) : (s.skipIf c).mode = s.mode := rfl
@[simp] theorem skipIf_fault (s : State) (c : Bool) : (s.skipIf c).fault = s.fault := rfl
@[simp] theorem skipIf_params (s : State) (c : Bool) : (s.skipIf c).params = s.params := rfl
@[simp] theorem skipIf_draws (s : State) (c : Bool) : (s.skipIf c).draws = s.draws := rfl
@[simp] theorem skipIf_stepped (s : State) (c : Bool) : (s.skipIf c).stepped = s.stepped := rfl
@[simp] theorem skipIf_reg (s : State) (c : Bool) (z : RegNum) : (s.skipIf c).reg z = s.reg z := rfl
@[simp] theorem skipIf_byteAt (s : State) (c : Bool) (q : Nat) : (s.skipIf c).byteAt q = s.byteAt q := rfl

/-! Registers: what a write of one register, of a result and its flag, or of a block changes. -/

theorem reg_setReg (s : State) (x z : RegNum) (b : Byte) : (s.setReg x b).reg z = if z = x then b else s.reg z := by
  unfold State.setReg State.reg State.setRegs
  simp only [Vector.getElem_set]
  by_cases h : z = x
  · simp [h]
  · have : ¬ x.toNat = z.toNat := fun e => h (BitVec.eq_of_toNat_eq e.symm)
    simp [h, this]

@[simp] theorem reg_setReg_same (s : State) (x : RegNum) (b : Byte) : (s.setReg x b).reg x = b := by
  simp [reg_setReg]

theorem reg_setReg_other (s : State) {x z : RegNum} (b : Byte) (h : z ≠ x) : (s.setReg x b).reg z = s.reg z := by
  simp [reg_setReg, h]

/-- VF holds the flag whatever `x` is (R200). -/
theorem reg_setRegFlag (s : State) (x z : RegNum) (r : Byte × Bool) :
    (s.setRegFlag x r).reg z = if z = regF then flagByte r.2 else if z = x then r.1 else s.reg z := by
  simp [State.setRegFlag, reg_setReg]

theorem reg_loadRegs (s : State) (x z : RegNum) (a : Nat) :
    (s.loadRegs x a).reg z = if z.toNat ≤ x.toNat then s.byteAt (a + z.toNat) else s.reg z := by
  simp [State.loadRegs, State.reg, State.setRegs, Vector.getElem_ofFn]

/-- Two states with the same registers hold the same register file. -/
theorem v_eq_of_reg_eq {s t : State} (h : ∀ z, t.reg z = s.reg z) : t.v = s.v := by
  apply Vector.ext
  intro k hk
  have := h (BitVec.ofNat 4 k)
  simpa [State.reg, BitVec.toNat_ofNat, Nat.mod_eq_of_lt hk] using this

end Sys2Proof.Machine
end

