-- ==== Sys2Proof/Laws/Memory.lean ====
section
/-! SUPPORT. Memory: read after write, for one byte and for a block, the canonical form, and the bound check. -/

namespace Sys2Proof.Machine

theorem memRead_memErase_other (p : Params) (m : Memory) {a q : Nat} (h : q ≠ a) :
    memRead p (memErase m a) q = memRead p m q := by
  induction m with
  | nil => rfl
  | cons c m ih =>
    obtain ⟨k, b⟩ := c
    unfold memErase at ih ⊢
    by_cases hk : k = a
    · subst hk
      simp [memRead, ih, Ne.symm h]
    · simp [hk, memRead, ih]

theorem memRead_memErase_same (p : Params) (m : Memory) (a : Nat) :
    memRead p (memErase m a) a = unlistedByte p a := by
  induction m with
  | nil => rfl
  | cons c m ih =>
    obtain ⟨k, b⟩ := c
    unfold memErase at ih ⊢
    by_cases hk : k = a
    · simp [hk, ih]
    · simp [hk, memRead, ih]

theorem memRead_memInsert_other (p : Params) (m : Memory) {a q : Nat} (b : Byte) (h : q ≠ a) :
    memRead p (memInsert m a b) q = memRead p m q := by
  induction m with
  | nil => simp [memInsert, memRead, Ne.symm h]
  | cons c m ih =>
    obtain ⟨k, d⟩ := c
    by_cases hk : a < k
    · simp [memInsert, hk, memRead, Ne.symm h]
    · simp [memInsert, hk, memRead, ih]

theorem memRead_memInsert_same (p : Params) (m : Memory) (a : Nat) (b : Byte) (h : ∀ c ∈ m, c.1 ≠ a) :
    memRead p (memInsert m a b) a = b := by
  induction m with
  | nil => simp [memInsert, memRead]
  | cons c m ih =>
    obtain ⟨k, d⟩ := c
    have hka : k ≠ a := h (k, d) (by simp)
    by_cases hk : a < k
    · simp [memInsert, hk, memRead]
    · simp [memInsert, hk, memRead, hka, ih fun c hc => h c (by simp [hc])]

theorem memErase_fst_ne (m : Memory) (a : Nat) : ∀ c ∈ memErase m a, c.1 ≠ a := by
  intro c hc
  simpa [memErase] using (List.mem_filter.mp hc).2

/-- Everything a write of one byte does to reading: it holds of every memory, canonical or not. -/
theorem memRead_memWrite (p : Params) (m : Memory) (a q : Nat) (b : Byte) :
    memRead p (memWrite p m a b) q = if q = a then b else memRead p m q := by
  unfold memWrite
  by_cases hq : q = a
  · subst hq
    by_cases hb : b = unlistedByte p q
    · simp [hb, memRead_memErase_same]
    · simp [hb, memRead_memInsert_same p _ q b (memErase_fst_ne m q)]
  · by_cases hb : b = unlistedByte p a
    · simp [hb, hq, memRead_memErase_other p m hq]
    · simp [hb, hq, memRead_memInsert_other p _ b hq, memRead_memErase_other p m hq]

/-- Everything a write of a block does to reading. -/
theorem memRead_memWriteBytes (p : Params) (m : Memory) (a q : Nat) (l : List Byte) :
    memRead p (memWriteBytes p m a l) q =
      if h : a ≤ q ∧ q - a < l.length then l[q - a]'h.2 else memRead p m q := by
  induction l generalizing m a with
  | nil => simp [memWriteBytes]
  | cons b l ih =>
    rw [memWriteBytes, ih, memRead_memWrite]
    by_cases h1 : q = a
    · subst h1
      simp
    · by_cases h2 : a ≤ q
      · obtain ⟨d, rfl⟩ : ∃ d, q = a + 1 + d := ⟨q - (a + 1), by omega⟩
        have e1 : a + 1 + d - (a + 1) = d := by omega
        have e2 : a + 1 + d - a = d + 1 := by omega
        simp [e1, e2, h2]
        split <;> simp_all
      · have h3 : ¬ a + 1 ≤ q := by omega
        simp [h1, h2, h3]

/-! The canonical form is kept. -/

theorem memErase_wf {p : Params} {m : Memory} (a : Nat) (h : Memory.wf p m) : Memory.wf p (memErase m a) :=
  ⟨h.1.filter _, fun c hc => h.2 c (List.mem_of_mem_filter hc)⟩

theorem mem_memInsert {m : Memory} {a : Nat} {b : Byte} {c : Host.Cell} (h : c ∈ memInsert m a b) :
    c = (a, b) ∨ c ∈ m := by
  induction m with
  | nil => simpa [memInsert] using h
  | cons d m ih =>
    obtain ⟨k, e⟩ := d
    by_cases hk : a < k
    · simpa [memInsert, hk] using h
    · simp only [memInsert, hk, if_false, List.mem_cons] at h
      rcases h with h | h
      · simp [h]
      · rcases ih h with h | h <;> simp [h]

theorem memInsert_wf {p : Params} {m : Memory} {a : Nat} {b : Byte} (h : Memory.wf p m) (hn : ∀ c ∈ m, c.1 ≠ a)
    (ha : a < memSize) (hb : b ≠ unlistedByte p a) : Memory.wf p (memInsert m a b) := by
  refine ⟨?_, fun c hc => ?_⟩
  · induction m with
    | nil => simp [memInsert]
    | cons d m ih =>
      obtain ⟨k, e⟩ := d
      have h' := List.pairwise_cons.mp h.1
      by_cases hk : a < k
      · simp only [memInsert, hk, if_true, List.pairwise_cons, List.mem_cons]
        refine ⟨?_, h'.1, h'.2⟩
        rintro c (rfl | hc)
        · exact hk
        · exact Nat.lt_trans hk (h'.1 c hc)
      · have hka : k < a := by have := hn (k, e) (by simp); simp at this; omega
        simp only [memInsert, hk, if_false, List.pairwise_cons]
        refine ⟨fun c hc => ?_, ih ⟨h'.2, fun c hc => h.2 c (by simp [hc])⟩ fun c hc => hn c (by simp [hc])⟩
        rcases mem_memInsert hc with rfl | hc
        · exact hka
        · exact h'.1 c hc
  · rcases mem_memInsert hc with rfl | hc
    · exact ⟨ha, hb⟩
    · exact h.2 c hc

/-- A write inside memory keeps the canonical form. -/
theorem memWrite_wf {p : Params} {m : Memory} {a : Nat} (b : Byte) (h : Memory.wf p m) (ha : a < memSize) :
    Memory.wf p (memWrite p m a b) := by
  unfold memWrite
  split
  · exact memErase_wf a h
  · exact memInsert_wf (memErase_wf a h) (memErase_fst_ne m a) ha (by assumption)

/-- A write of a block inside memory keeps the canonical form. -/
theorem memWriteBytes_wf {p : Params} {m : Memory} {a : Nat} {l : List Byte} (h : Memory.wf p m)
    (ha : a + l.length ≤ memSize) : Memory.wf p (memWriteBytes p m a l) := by
  induction l generalizing m a with
  | nil => exact h
  | cons b l ih =>
    simp only [List.length_cons] at ha
    exact ih (memWrite_wf b h (by omega)) (by omega)

theorem reset_mem_wf : Memory.wf State.reset.params State.reset.mem :=
  ⟨List.Pairwise.nil, by simp [State.reset]⟩

/-! The same at the level of the state. -/

theorem byteAt_writeBytes (s : State) (a q : Nat) (l : List Byte) :
    (s.writeBytes a l).byteAt q = if h : a ≤ q ∧ q - a < l.length then l[q - a]'h.2 else s.byteAt q :=
  memRead_memWriteBytes s.params s.mem a q l

@[simp] theorem readBytes_length (s : State) (a n : Nat) : (s.readBytes a n).length = n := by simp [State.readBytes]

theorem getElem_readBytes (s : State) (a n k : Nat) (h : k < (s.readBytes a n).length) :
    (s.readBytes a n)[k] = s.byteAt (a + k) := by simp [State.readBytes]

@[simp] theorem bcdDigits_length (b : Byte) : (bcdDigits b).length = 3 := rfl

@[simp] theorem regsUpTo_length (s : State) (x : RegNum) : (s.regsUpTo x).length = x.toNat + 1 := by
  have := x.isLt
  simp [State.regsUpTo]
  omega

theorem getElem_regsUpTo (s : State) (x : RegNum) (k : Nat) (h : k < (s.regsUpTo x).length) :
    (s.regsUpTo x)[k] = s.reg (BitVec.ofNat 4 k) := by
  have hx := x.isLt
  have hk : k < 16 := by simp at h; omega
  simp [State.regsUpTo, State.reg, BitVec.toNat_ofNat, Nat.mod_eq_of_lt hk]

/-! The bound check (R66). -/

theorem oobAddress_none_iff {a n : Nat} : oobAddress a n = none ↔ n = 0 ∨ a + n ≤ 0x1000 := by
  unfold oobAddress memSize
  split <;> simp_all

theorem oobAddress_some_iff {a n q : Nat} :
    oobAddress a n = some q ↔ (n ≠ 0 ∧ 0x1000 < a + n) ∧ q = max a 0x1000 := by
  unfold oobAddress memSize
  split
  · simp; omega
  · simp; constructor
    · rintro rfl; exact ⟨by omega, rfl⟩
    · rintro ⟨-, rfl⟩; rfl

end Sys2Proof.Machine
end

