-- ==== Sys2Proof/Laws/Step.lean ====
section
/-! SUPPORT. The step cycle: what the ticks before a step leave alone, what an instruction can do, and the cases of a
step. Provers cite these and do not unfold the step. -/

namespace Sys2Proof.Machine

/-! Ticks touch only the timers (R306); before a step they also count one draw. -/

@[simp] theorem tickMany_mem (s : State) (n : Nat) : (s.tickMany n).mem = s.mem := by
  unfold State.tickMany
  split <;> rfl

@[simp] theorem tickMany_v (s : State) (n : Nat) : (s.tickMany n).v = s.v := by
  unfold State.tickMany
  split <;> rfl

@[simp] theorem tickMany_i (s : State) (n : Nat) : (s.tickMany n).i = s.i := by
  unfold State.tickMany
  split <;> rfl

@[simp] theorem tickMany_pc (s : State) (n : Nat) : (s.tickMany n).pc = s.pc := by
  unfold State.tickMany
  split <;> rfl

@[simp] theorem tickMany_sp (s : State) (n : Nat) : (s.tickMany n).sp = s.sp := by
  unfold State.tickMany
  split <;> rfl

@[simp] theorem tickMany_stack (s : State) (n : Nat) : (s.tickMany n).stack = s.stack := by
  unfold State.tickMany
  split <;> rfl

@[simp] theorem tickMany_fb (s : State) (n : Nat) : (s.tickMany n).fb = s.fb := by
  unfold State.tickMany
  split <;> rfl

@[simp] theorem tickMany_disposed (s : State) (n : Nat) : (s.tickMany n).disposed = s.disposed := by
  unfold State.tickMany
  split <;> rfl

@[simp] theorem tickMany_mode (s : State) (n : Nat) : (s.tickMany n).mode = s.mode := by
  unfold State.tickMany
  split <;> rfl

@[simp] theorem tickMany_fault (s : State) (n : Nat) : (s.tickMany n).fault = s.fault := by
  unfold State.tickMany
  split <;> rfl

@[simp] theorem tickMany_params (s : State) (n : Nat) : (s.tickMany n).params = s.params := by
  unfold State.tickMany
  split <;> rfl

@[simp] theorem tickMany_stepped (s : State) (n : Nat) : (s.tickMany n).stepped = s.stepped := by
  unfold State.tickMany
  split <;> rfl

@[simp] theorem tickMany_draws (s : State) (n : Nat) : (s.tickMany n).draws = s.draws := by
  unfold State.tickMany
  split <;> rfl

theorem tickMany_dt (s : State) (n : Nat) : (s.tickMany n).dt = if s.disposed then s.dt else decay s.dt n := by
  unfold State.tickMany
  split <;> rfl

theorem tickMany_st (s : State) (n : Nat) : (s.tickMany n).st = if s.disposed then s.st else decay s.st n := by
  unfold State.tickMany
  split <;> rfl

@[simp] theorem tickMany_reg (s : State) (n : Nat) (z : RegNum) : (s.tickMany n).reg z = s.reg z := by
  simp [State.reg]

@[simp] theorem tickMany_byteAt (s : State) (n a : Nat) : (s.tickMany n).byteAt a = s.byteAt a := by
  simp [State.byteAt]

@[simp] theorem passTicks_mem (s : State) : s.passTicks.mem = s.mem := by
  simp [State.passTicks]

@[simp] theorem passTicks_v (s : State) : s.passTicks.v = s.v := by
  simp [State.passTicks]

@[simp] theorem passTicks_i (s : State) : s.passTicks.i = s.i := by
  simp [State.passTicks]

@[simp] theorem passTicks_pc (s : State) : s.passTicks.pc = s.pc := by
  simp [State.passTicks]

@[simp] theorem passTicks_sp (s : State) : s.passTicks.sp = s.sp := by
  simp [State.passTicks]

@[simp] theorem passTicks_stack (s : State) : s.passTicks.stack = s.stack := by
  simp [State.passTicks]

@[simp] theorem passTicks_fb (s : State) : s.passTicks.fb = s.fb := by
  simp [State.passTicks]

@[simp] theorem passTicks_disposed (s : State) : s.passTicks.disposed = s.disposed := by
  simp [State.passTicks]

@[simp] theorem passTicks_mode (s : State) : s.passTicks.mode = s.mode := by
  simp [State.passTicks]

@[simp] theorem passTicks_fault (s : State) : s.passTicks.fault = s.fault := by
  simp [State.passTicks]

@[simp] theorem passTicks_params (s : State) : s.passTicks.params = s.params := by
  simp [State.passTicks]

@[simp] theorem passTicks_stepped (s : State) : s.passTicks.stepped = s.stepped := by
  simp [State.passTicks]

@[simp] theorem passTicks_draws (s : State) : s.passTicks.draws = s.draws + 1 := by
  simp [State.passTicks]

@[simp] theorem passTicks_reg (s : State) (z : RegNum) : s.passTicks.reg z = s.reg z := by
  simp [State.passTicks]

@[simp] theorem passTicks_byteAt (s : State) (a : Nat) : s.passTicks.byteAt a = s.byteAt a := by
  simp [State.passTicks]

/-! A press changes a register and the mode, and only when a step is pending. -/

theorem press_running (s : State) (k : Key) (h : s.mode = .running) : s.press k = s := by
  unfold State.press
  rw [h]

theorem press_waiting (s : State) (k : Key) (x : RegNum) (h : s.mode = .waitKey x) (hd : s.disposed = false) :
    s.press k = (s.setReg x (k.setWidth 8)).setMode .running := by
  unfold State.press
  rw [h]
  simp [hd]

/-! Fetch and the entry checks read memory, PC and the three blocking fields only. -/

theorem fetch16_congr {s t : State} (h : ∀ a, t.byteAt a = s.byteAt a) (hpc : t.pc = s.pc) :
    t.fetch16 = s.fetch16 := by
  simp [State.fetch16, h, hpc]

@[simp] theorem fetch16_passTicks (s : State) : s.passTicks.fetch16 = s.fetch16 := by
  simp [State.fetch16]

@[simp] theorem fetch16_setStepped (s : State) : s.setStepped.fetch16 = s.fetch16 := rfl

@[simp] theorem entryFault_passTicks (s : State) : s.passTicks.entryFault = s.entryFault := by
  simp [State.entryFault]

@[simp] theorem waiting_passTicks (s : State) : s.passTicks.waiting = s.waiting := by
  simp [State.waiting]

theorem waiting_iff {s : State} :
    s.waiting = true ↔ s.disposed = false ∧ s.fault = none ∧ ∃ x, s.mode = .waitKey x := by
  unfold State.waiting State.entryFault
  cases s.disposed <;> cases s.fault <;> cases s.mode <;> simp

theorem entryFault_none_iff {s : State} : s.entryFault = none ↔ s.disposed = false ∧ s.fault = none := by
  unfold State.entryFault
  cases s.disposed <;> cases s.fault <;> simp

/-! What an instruction does to every state. -/

/-! The two outcomes of each meaning that can raise a fault. -/

theorem execRet_empty {s : State} (h : s.sp = .empty) : execRet s = .next (s.latch (.stackUnderflow s.instrAddr)) := by
  simp [execRet, h, raise]

theorem execRet_top {s : State} {j : Fin 16} (h : s.sp = .top j) :
    execRet s = .next ((s.setPc s.stack[j]).setSp (StackPtr.below j)) := by
  simp [execRet, h]

theorem execCall_full {s : State} (nnn : Addr12) (h : s.sp.nextSlot = none) :
    execCall nnn s = .next (s.latch (.stackOverflow s.instrAddr)) := by
  simp [execCall, h, raise]

theorem execCall_push {s : State} {j : Fin 16} (nnn : Addr12) (h : s.sp.nextSlot = some j) :
    execCall nnn s = .next ((s.push j s.pc).setPc (zextAddr nnn)) := by
  simp [execCall, h]

theorem execDrw_outside {s : State} {x y : RegNum} {n : Nibble} {a : Nat}
    (h : oobAddress s.i.toNat n.toNat = some a) : execDrw x y n s = .next (s.latch (.memOob a)) := by
  simp [execDrw, h, raise]

theorem execDrw_inside {s : State} (x y : RegNum) {n : Nibble} (h : oobAddress s.i.toNat n.toNat = none) :
    execDrw x y n s = .next ((s.setFb (s.sprite x y n).1).setReg regF (flagByte (s.sprite x y n).2)) := by
  simp [execDrw, h]

theorem execLdB_outside {s : State} {x : RegNum} {a : Nat} (h : oobAddress s.i.toNat 3 = some a) :
    execLdB x s = .next (s.latch (.memOob a)) := by
  simp [execLdB, h, raise]

theorem execLdB_inside {s : State} (x : RegNum) (h : oobAddress s.i.toNat 3 = none) :
    execLdB x s = .next (s.writeBytes s.i.toNat (bcdDigits (s.reg x))) := by
  simp [execLdB, h]

theorem execLdMemV_outside {s : State} {x : RegNum} {a : Nat} (h : oobAddress s.i.toNat (x.toNat + 1) = some a) :
    execLdMemV x s = .next (s.latch (.memOob a)) := by
  simp [execLdMemV, h, raise]

theorem execLdMemV_inside {s : State} (x : RegNum) (h : oobAddress s.i.toNat (x.toNat + 1) = none) :
    execLdMemV x s = .next (s.writeBytes s.i.toNat (s.regsUpTo x)) := by
  simp [execLdMemV, h]

theorem execLdVMem_outside {s : State} {x : RegNum} {a : Nat} (h : oobAddress s.i.toNat (x.toNat + 1) = some a) :
    execLdVMem x s = .next (s.latch (.memOob a)) := by
  simp [execLdVMem, h, raise]

theorem execLdVMem_inside {s : State} (x : RegNum) (h : oobAddress s.i.toNat (x.toNat + 1) = none) :
    execLdVMem x s = .next (s.loadRegs x s.i.toNat) := by
  simp [execLdVMem, h]

/-- No instruction stops the machine: its meaning always answers a next state. -/
theorem exec_answers_next (i : Instr) (s : State) : ∃ t, exec i s = .next t := by
  cases i with
  | ret =>
    rcases h : s.sp with _ | j
    · exact ⟨_, execRet_empty h⟩
    · exact ⟨_, execRet_top h⟩
  | call nnn =>
    rcases h : s.sp.nextSlot with _ | j
    · exact ⟨_, execCall_full nnn h⟩
    · exact ⟨_, execCall_push nnn h⟩
  | drw x y n =>
    rcases h : oobAddress s.i.toNat n.toNat with _ | a
    · exact ⟨_, execDrw_inside x y h⟩
    · exact ⟨_, execDrw_outside h⟩
  | ldB x =>
    rcases h : oobAddress s.i.toNat 3 with _ | a
    · exact ⟨_, execLdB_inside x h⟩
    · exact ⟨_, execLdB_outside h⟩
  | ldMemV x =>
    rcases h : oobAddress s.i.toNat (x.toNat + 1) with _ | a
    · exact ⟨_, execLdMemV_inside x h⟩
    · exact ⟨_, execLdMemV_outside h⟩
  | ldVMem x =>
    rcases h : oobAddress s.i.toNat (x.toNat + 1) with _ | a
    · exact ⟨_, execLdVMem_inside x h⟩
    · exact ⟨_, execLdVMem_outside h⟩
  | _ => exact ⟨_, rfl⟩

/-- No decoded word stops the machine. -/
theorem execDecoded_answers_next (d : Decoded) (s : State) : ∃ t, execDecoded d s = .next t := by
  cases d with
  | instr i => exact exec_answers_next i s
  | undefined w => exact ⟨s, rfl⟩

/-- The cycle never stops the machine. -/
theorem cycle_answers_next (s : State) : ∃ t, cycle s = .next t := by
  unfold cycle
  split
  · exact ⟨_, rfl⟩
  · exact execDecoded_answers_next _ _

/-- The cycle with PC inside the bound (R122 to R125). -/
theorem cycle_of_inBound {s : State} (h : s.pc.toNat ≤ pcFetchMax) :
    cycle s = execDecoded (decode s.fetch16) s.advance := by
  simp [cycle, Nat.not_lt.mpr h]

/-- The cycle with PC above the bound (R121). -/
theorem cycle_of_outOfBound {s : State} (h : pcFetchMax < s.pc.toNat) : cycle s = .next (s.latch (.pcOob s.pc)) := by
  simp [cycle, h, raise]

/-! The cases of a step. -/

theorem step_stopped {s : State} {f : Fault} (h : s.entryFault = some f) : step s = .fault f := by
  have hw : s.waiting = false := by simp [State.waiting, h]
  simp [step, machineStep, State.hostCall, hw, h]

theorem step_waiting {s : State} (h : s.waiting = true) :
    step s = .next (s.passTicks.countDraw.awaitWith (Config.keyPress (s.draws + 1))) := by
  simp [step, machineStep, h]

theorem hostCall_ready {s : State} (h : s.Ready) : s.hostCall = cycle s.setStepped := by
  unfold State.hostCall
  rw [entryFault_none_iff.mpr ⟨h.1, h.2.1⟩, h.2.2]

theorem step_ready {s : State} (h : s.Ready) : step s = cycle s.passTicks.setStepped := by
  have hw : s.waiting = false := by
    rw [Bool.eq_false_iff]
    intro hw
    obtain ⟨-, -, x, hx⟩ := waiting_iff.mp hw
    rw [h.2.2] at hx
    cases hx
  have hr : s.passTicks.Ready := by simpa [State.Ready] using h
  simp [step, machineStep, hw, hostCall_ready hr]

/-- Every state is stopped at entry, waiting for a key, or ready. -/
theorem step_cases (s : State) : (∃ f, s.entryFault = some f) ∨ s.waiting = true ∨ s.Ready := by
  rcases he : s.entryFault with _ | f
  · obtain ⟨hd, hf⟩ := entryFault_none_iff.mp he
    rcases hm : s.mode with _ | x
    · exact .inr (.inr ⟨hd, hf, hm⟩)
    · exact .inr (.inl (waiting_iff.mpr ⟨hd, hf, x, hm⟩))
  · exact .inl ⟨f, rfl⟩

end Sys2Proof.Machine
end

