-- ==== Sys2Proof/Laws/Events.lean ====
section
/-! SUPPORT. What an event leaves, by its outcome, and runs of events: their steps, their joining, runs of ticks. -/

namespace Sys2Proof.Machine

theorem afterEvent_next {s t : State} {e : Event} (h : react e s = .next t) : s.afterEvent e = some t := by
  simp [State.afterEvent, h]

theorem afterEvent_fault {s : State} {e : Event} {f : Fault} (h : react e s = .fault f) : s.afterEvent e = some s := by
  simp [State.afterEvent, h]

theorem afterEvent_refused {s : State} {e : Event} {r : Refusal} (h : react e s = .refused r) : s.afterEvent e = none := by
  simp [State.afterEvent, h]

/-- Everything an event can leave: what it gives as a next state, or, when it fails, the state as it was. -/
theorem afterEvent_cases {s t : State} {e : Event} (h : s.afterEvent e = some t) :
    react e s = .next t ∨ ((∃ f, react e s = .fault f) ∧ t = s) := by
  cases hr : react e s with
  | next u => rw [afterEvent_next hr] at h; cases h; exact .inl rfl
  | fault f => rw [afterEvent_fault hr] at h; cases h; exact .inr ⟨⟨f, rfl⟩, rfl⟩
  | refused r => rw [afterEvent_refused hr] at h; cases h

theorem load_fits {s : State} {bytes : List Byte} (hd : s.disposed = false) (hs : s.stepped = false)
    (h : bytes.length ≤ progMax) : s.load bytes = .next (s.writeBytes progBase bytes) := by
  simp [State.load, hd, hs, Nat.not_lt.mpr h]

theorem load_tooLarge {s : State} {bytes : List Byte} (hd : s.disposed = false) (hs : s.stepped = false)
    (h : progMax < bytes.length) : s.load bytes = .fault (.loadTooLarge bytes.length) := by
  simp [State.load, hd, hs, h]

@[simp] theorem runEvents_nil (s : State) : runEvents [] s = some s := rfl

theorem runEvents_cons (e : Event) (es : List Event) (s : State) :
    runEvents (e :: es) s = (s.afterEvent e).bind (runEvents es) := rfl

theorem runEvents_append (es fs : List Event) (s : State) :
    runEvents (es ++ fs) s = (runEvents es s).bind (runEvents fs) := by
  induction es generalizing s with
  | nil => rfl
  | cons e es ih =>
    rw [List.cons_append, runEvents_cons, runEvents_cons]
    cases s.afterEvent e with
    | none => rfl
    | some t => exact ih t

@[simp] theorem afterEvent_tick (s : State) : s.afterEvent .tick = some s.tick := rfl

theorem runEvents_ticks (n : Nat) (s : State) :
    runEvents (List.replicate n .tick) s = some (Nat.iterate State.tick n s) := by
  induction n generalizing s with
  | zero => rfl
  | succ n ih => exact ih s.tick

end Sys2Proof.Machine
end

