-- ==== Sys2Proof/Laws/PerInstr.lean ====
section
/-! SUPPORT. One fact of every instruction as syntax: its word lies in its own row of the opcode map
(spec/30_encoding.md R101). -/

namespace Sys2Proof.Laws.OpcodeRow

/-- Some row of the opcode map has the instruction's name, and the instruction's word belongs to it. -/
def Statement (i : Instr) : Prop :=
  ∃ r ∈ opcodeMap, r.mnemonic = i.mnemonic ∧ encode i &&& r.mask = r.pattern

theorem mask_wordNNN (op : Nibble) (nnn : Addr12) : wordNNN op nnn &&& 0xF000#16 = wordNNN op 0#12 := by
  apply BitVec.eq_of_getLsbD_eq
  intro k hk
  unfold wordNNN
  rw [BitVec.getLsbD_and, BitVec.getLsbD_append, BitVec.getLsbD_append]
  interval_cases k <;> simp

theorem mask_wordXKK (op : Nibble) (x : RegNum) (kk : Byte) : wordXKK op x kk &&& 0xF000#16 = wordNNN op 0#12 := by
  apply BitVec.eq_of_getLsbD_eq
  intro k hk
  unfold wordXKK wordNNN
  rw [BitVec.getLsbD_and, BitVec.getLsbD_append, BitVec.getLsbD_append, BitVec.getLsbD_append]
  interval_cases k <;> simp

theorem mask_wordXYN (op : Nibble) (x y : RegNum) (n : Nibble) :
    wordXYN op x y n &&& 0xF000#16 = wordNNN op 0#12 := mask_wordXKK op x _

theorem mask_wordXYN0 (op : Nibble) (x y : RegNum) (n : Nibble) :
    wordXYN op x y n &&& 0xF00F#16 = wordXYN op 0#4 0#4 n := by
  apply BitVec.eq_of_getLsbD_eq
  intro k hk
  unfold wordXYN
  rw [BitVec.getLsbD_and, BitVec.getLsbD_append, BitVec.getLsbD_append, BitVec.getLsbD_append, BitVec.getLsbD_append,
    BitVec.getLsbD_append, BitVec.getLsbD_append]
  interval_cases k <;> simp

theorem mask_wordXKK0 (op : Nibble) (x : RegNum) (kk : Byte) :
    wordXKK op x kk &&& 0xF0FF#16 = wordXKK op 0#4 kk := by
  apply BitVec.eq_of_getLsbD_eq
  intro k hk
  unfold wordXKK
  rw [BitVec.getLsbD_and, BitVec.getLsbD_append, BitVec.getLsbD_append, BitVec.getLsbD_append, BitVec.getLsbD_append]
  interval_cases k <;> simp

theorem cls : Statement (.cls) :=
  ⟨⟨"CLS", 0x00E0, 0xFFFF⟩, by decide, rfl, by decide⟩

theorem ret : Statement (.ret) :=
  ⟨⟨"RET", 0x00EE, 0xFFFF⟩, by decide, rfl, by decide⟩

theorem sys (nnn : Addr12) : Statement (.sys nnn) :=
  ⟨⟨"SYS", 0x0000, 0xF000⟩, by decide, rfl, mask_wordNNN _ nnn⟩

theorem jp (nnn : Addr12) : Statement (.jp nnn) :=
  ⟨⟨"JP", 0x1000, 0xF000⟩, by decide, rfl, mask_wordNNN _ nnn⟩

theorem call (nnn : Addr12) : Statement (.call nnn) :=
  ⟨⟨"CALL", 0x2000, 0xF000⟩, by decide, rfl, mask_wordNNN _ nnn⟩

theorem seImm (x : RegNum) (kk : Byte) : Statement (.seImm x kk) :=
  ⟨⟨"SE_imm", 0x3000, 0xF000⟩, by decide, rfl, mask_wordXKK _ x kk⟩

theorem sneImm (x : RegNum) (kk : Byte) : Statement (.sneImm x kk) :=
  ⟨⟨"SNE_imm", 0x4000, 0xF000⟩, by decide, rfl, mask_wordXKK _ x kk⟩

theorem seReg (x y : RegNum) : Statement (.seReg x y) :=
  ⟨⟨"SE_reg", 0x5000, 0xF00F⟩, by decide, rfl, mask_wordXYN0 _ x y _⟩

theorem sneReg (x y : RegNum) : Statement (.sneReg x y) :=
  ⟨⟨"SNE_reg", 0x9000, 0xF00F⟩, by decide, rfl, mask_wordXYN0 _ x y _⟩

theorem ldImm (x : RegNum) (kk : Byte) : Statement (.ldImm x kk) :=
  ⟨⟨"LD_imm", 0x6000, 0xF000⟩, by decide, rfl, mask_wordXKK _ x kk⟩

theorem addImm (x : RegNum) (kk : Byte) : Statement (.addImm x kk) :=
  ⟨⟨"ADD_imm", 0x7000, 0xF000⟩, by decide, rfl, mask_wordXKK _ x kk⟩

theorem ldReg (x y : RegNum) : Statement (.ldReg x y) :=
  ⟨⟨"LD_reg", 0x8000, 0xF00F⟩, by decide, rfl, mask_wordXYN0 _ x y _⟩

theorem orReg (x y : RegNum) : Statement (.orReg x y) :=
  ⟨⟨"OR", 0x8001, 0xF00F⟩, by decide, rfl, mask_wordXYN0 _ x y _⟩

theorem andReg (x y : RegNum) : Statement (.andReg x y) :=
  ⟨⟨"AND", 0x8002, 0xF00F⟩, by decide, rfl, mask_wordXYN0 _ x y _⟩

theorem xorReg (x y : RegNum) : Statement (.xorReg x y) :=
  ⟨⟨"XOR", 0x8003, 0xF00F⟩, by decide, rfl, mask_wordXYN0 _ x y _⟩

theorem addReg (x y : RegNum) : Statement (.addReg x y) :=
  ⟨⟨"ADD_reg", 0x8004, 0xF00F⟩, by decide, rfl, mask_wordXYN0 _ x y _⟩

theorem sub (x y : RegNum) : Statement (.sub x y) :=
  ⟨⟨"SUB", 0x8005, 0xF00F⟩, by decide, rfl, mask_wordXYN0 _ x y _⟩

theorem shr (x y : RegNum) : Statement (.shr x y) :=
  ⟨⟨"SHR", 0x8006, 0xF00F⟩, by decide, rfl, mask_wordXYN0 _ x y _⟩

theorem subn (x y : RegNum) : Statement (.subn x y) :=
  ⟨⟨"SUBN", 0x8007, 0xF00F⟩, by decide, rfl, mask_wordXYN0 _ x y _⟩

theorem shl (x y : RegNum) : Statement (.shl x y) :=
  ⟨⟨"SHL", 0x800E, 0xF00F⟩, by decide, rfl, mask_wordXYN0 _ x y _⟩

theorem ldI (nnn : Addr12) : Statement (.ldI nnn) :=
  ⟨⟨"LD_I", 0xA000, 0xF000⟩, by decide, rfl, mask_wordNNN _ nnn⟩

theorem jpV0 (nnn : Addr12) : Statement (.jpV0 nnn) :=
  ⟨⟨"JP_V0", 0xB000, 0xF000⟩, by decide, rfl, mask_wordNNN _ nnn⟩

theorem rnd (x : RegNum) (kk : Byte) : Statement (.rnd x kk) :=
  ⟨⟨"RND", 0xC000, 0xF000⟩, by decide, rfl, mask_wordXKK _ x kk⟩

theorem drw (x y : RegNum) (n : Nibble) : Statement (.drw x y n) :=
  ⟨⟨"DRW", 0xD000, 0xF000⟩, by decide, rfl, mask_wordXYN _ x y n⟩

theorem skp (x : RegNum) : Statement (.skp x) :=
  ⟨⟨"SKP", 0xE09E, 0xF0FF⟩, by decide, rfl, mask_wordXKK0 _ x _⟩

theorem sknp (x : RegNum) : Statement (.sknp x) :=
  ⟨⟨"SKNP", 0xE0A1, 0xF0FF⟩, by decide, rfl, mask_wordXKK0 _ x _⟩

theorem ldVDt (x : RegNum) : Statement (.ldVDt x) :=
  ⟨⟨"LD_V_DT", 0xF007, 0xF0FF⟩, by decide, rfl, mask_wordXKK0 _ x _⟩

theorem ldDtV (x : RegNum) : Statement (.ldDtV x) :=
  ⟨⟨"LD_DT_V", 0xF015, 0xF0FF⟩, by decide, rfl, mask_wordXKK0 _ x _⟩

theorem ldStV (x : RegNum) : Statement (.ldStV x) :=
  ⟨⟨"LD_ST_V", 0xF018, 0xF0FF⟩, by decide, rfl, mask_wordXKK0 _ x _⟩

theorem ldVK (x : RegNum) : Statement (.ldVK x) :=
  ⟨⟨"LD_V_K", 0xF00A, 0xF0FF⟩, by decide, rfl, mask_wordXKK0 _ x _⟩

theorem addI (x : RegNum) : Statement (.addI x) :=
  ⟨⟨"ADD_I", 0xF01E, 0xF0FF⟩, by decide, rfl, mask_wordXKK0 _ x _⟩

theorem ldF (x : RegNum) : Statement (.ldF x) :=
  ⟨⟨"LD_F", 0xF029, 0xF0FF⟩, by decide, rfl, mask_wordXKK0 _ x _⟩

theorem ldB (x : RegNum) : Statement (.ldB x) :=
  ⟨⟨"LD_B", 0xF033, 0xF0FF⟩, by decide, rfl, mask_wordXKK0 _ x _⟩

theorem ldMemV (x : RegNum) : Statement (.ldMemV x) :=
  ⟨⟨"LD_MEM_V", 0xF055, 0xF0FF⟩, by decide, rfl, mask_wordXKK0 _ x _⟩

theorem ldVMem (x : RegNum) : Statement (.ldVMem x) :=
  ⟨⟨"LD_V_MEM", 0xF065, 0xF0FF⟩, by decide, rfl, mask_wordXKK0 _ x _⟩

end Sys2Proof.Laws.OpcodeRow
end

