-- ==== Sys2Proof/Tests/Slice0.lean ====
section
/-! SUPPORT. Tests on fixed values, each from a vector of spec/95_test_vectors.md (its id stands beside it) or from a rule
of the spec by hand, and the witnesses that the hypotheses of the statements can be met. -/

namespace Sys2Proof.Tests

open Sys2Proof Sys2Proof.Machine Sys2Proof.Spec

/-! Helpers. -/

/-- The state after construction with some registers set. -/
def start (regs : List (RegNum × Byte)) : State := regs.foldl (fun s r => s.setReg r.1 r.2) State.reset

/-- The same with I set. -/
def startI (i : Word) (regs : List (RegNum × Byte)) : State := (start regs).setI i

/-- What a step on the word stored at PC leaves, in one view. -/
def after {α : Type} (w : Nat) (s : State) (view : State → α) : Option α :=
  match step (s.withFetchWord 16 w) with
  | .next t => some (view t)
  | .fault _ => none
  | .refused _ => none

/-- What an instruction alone leaves, in one view. -/
def ran {α : Type} (i : Instr) (s : State) (view : State → α) : Option α :=
  match exec i s with
  | .next t => some (view t)
  | .fault _ => none
  | .refused _ => none

/-- A machine waiting for a key for V3. -/
def waiting3 : State := (start [(3, 0x77)]).setMode (.waitKey 3)

/-! WellFormed: each check refuses an ill-formed term, and the neighbours pass (spec/30_encoding.md R94). -/

theorem test_wf_refuses_sys_0E0 : (Instr.sys 0x0E0).wf = false := by decide
theorem test_wf_refuses_sys_0EE : (Instr.sys 0x0EE).wf = false := by decide
theorem test_wf_accepts_sys_1E0 : (Instr.sys 0x1E0).wf = true := by decide

/-! Decoding: every constructor's word from the patterns of spec/30_encoding.md R101. -/

theorem test_decode_family0 : decode 0x00E0 = .instr .cls ∧ decode 0x00EE = .instr .ret ∧
    decode 0x0000 = .instr (.sys 0x000) ∧ decode 0x01E0 = .instr (.sys 0x1E0) ∧ decode 0x0FFF = .instr (.sys 0xFFF) := by
  decide
theorem test_decode_flow : decode 0x1234 = .instr (.jp 0x234) ∧ decode 0x2ABC = .instr (.call 0xABC) ∧
    decode 0x3A42 = .instr (.seImm 0xA 0x42) ∧ decode 0x4B1F = .instr (.sneImm 0xB 0x1F) ∧
    decode 0x5120 = .instr (.seReg 1 2) ∧ decode 0x9EF0 = .instr (.sneReg 0xE 0xF) ∧
    decode 0xB300 = .instr (.jpV0 0x300) := by decide
theorem test_decode_imm : decode 0x6A9D = .instr (.ldImm 0xA 0x9D) ∧ decode 0x7001 = .instr (.addImm 0 1) ∧
    decode 0xC70F = .instr (.rnd 7 0x0F) := by decide
theorem test_decode_family8 : decode 0x8AB0 = .instr (.ldReg 0xA 0xB) ∧ decode 0x8AB1 = .instr (.orReg 0xA 0xB) ∧
    decode 0x8AB2 = .instr (.andReg 0xA 0xB) ∧ decode 0x8AB3 = .instr (.xorReg 0xA 0xB) ∧
    decode 0x8AB4 = .instr (.addReg 0xA 0xB) ∧ decode 0x8AB5 = .instr (.sub 0xA 0xB) ∧
    decode 0x8AB6 = .instr (.shr 0xA 0xB) ∧ decode 0x8AB7 = .instr (.subn 0xA 0xB) ∧
    decode 0x8ABE = .instr (.shl 0xA 0xB) := by decide
theorem test_decode_index_draw : decode 0xA300 = .instr (.ldI 0x300) ∧ decode 0xD125 = .instr (.drw 1 2 5) := by decide
theorem test_decode_familyE : decode 0xE59E = .instr (.skp 5) ∧ decode 0xE5A1 = .instr (.sknp 5) := by decide
theorem test_decode_familyF : decode 0xF307 = .instr (.ldVDt 3) ∧ decode 0xF30A = .instr (.ldVK 3) ∧
    decode 0xF315 = .instr (.ldDtV 3) ∧ decode 0xF318 = .instr (.ldStV 3) ∧ decode 0xF31E = .instr (.addI 3) ∧
    decode 0xF329 = .instr (.ldF 3) ∧ decode 0xF333 = .instr (.ldB 3) ∧ decode 0xF355 = .instr (.ldMemV 3) ∧
    decode 0xF365 = .instr (.ldVMem 3) := by decide
/- STEP-5 to STEP-8. -/
theorem test_decode_undefined : decode 0x5011 = .undefined 0x5011 ∧ decode 0x9011 = .undefined 0x9011 ∧
    decode 0x8018 = .undefined 0x8018 ∧ decode 0xE19F = .undefined 0xE19F ∧ decode 0xF156 = .undefined 0xF156 := by decide
theorem test_decode_bytes_in_order : decodeBytes [0x12, 0x34, 0x60] = .ok (.instr (.jp 0x234), [0x60]) := by decide
theorem test_decode_truncated : decodeBytes [0x12] = .error .truncated := by decide
theorem test_decodeTableWord : decodeTableWord 16 0xD125 = some (.drw 1 2 5) := by decide

/-! Memory after construction. -/

/- HOST-1, and the addresses and bytes of glyphs 8, 9 and F in the table of R63. -/
theorem test_reset_glyphs : State.reset.readBytes 0x000 5 = [0xF0, 0x90, 0x90, 0x90, 0xF0] ∧
    State.reset.readBytes 0x028 5 = [0xF0, 0x90, 0xF0, 0x90, 0xF0] ∧
    State.reset.readBytes 0x02D 5 = [0xF0, 0x90, 0xF0, 0x10, 0xF0] ∧
    State.reset.readBytes 0x04B 6 = [0xF0, 0x80, 0xF0, 0x80, 0x80, 0x00] := by decide

/-! The step. -/

/- STEP-1: big-endian fetch. -/
theorem test_step_big_endian : after 0x1234 State.reset (·.pc) = some 0x234 := by decide
/- STEP-9 and STEP-10. -/
theorem test_step_last_address : after 0x0000 (State.reset.setPc 0xFFE) (fun t => (t.pc, t.fault)) = some (0x1000, none) := by
  decide
theorem test_step_pc_oob : (match step (State.reset.setPc 0x1000) with
    | .next t => some (t.pc, t.fault) | .fault _ => none | .refused _ => none) =
    some (0x1000, some (.pcOob 0x1000)) := by decide
/- STEP-11, HOST-7, HOST-9. -/
theorem test_step_latched : step (State.reset.latch (.pcOob 0x1000)) = .fault (.latched (.pcOob 0x1000)) := rfl
theorem test_step_disposed_first : step (State.reset.latch (.stackOverflow 0x200)).dispose = .fault .disposed := rfl
/- STEP-7: an undefined encoding is a no-op. -/
theorem test_step_undefined : after 0x8018 (start [(0, 1), (1, 2), (0xF, 0x55)]) (fun t => (t.pc, t.reg 0, t.reg 0xF)) =
    some (0x202, 1, 0x55) := by decide

/-! One or two tests for each instruction. -/

/- DRAW-1. -/
theorem test_CLS : ran .cls ((start [(0xF, 0x77)]).setFb (setPixel blankFramebuffer 5 9 true))
    (fun t => (pixel t.fb 5 9, t.reg 0xF)) = some (false, 0x77) := by decide
/- FLOW-7, FLOW-8. -/
theorem test_RET : ran .ret (State.reset.push 0 0x206) (fun t => (t.pc, t.sp, t.stack[0])) =
    some (0x206, .empty, 0x206) := by decide
theorem test_RET_underflow : after 0x00EE State.reset (fun t => (t.pc, t.sp, t.fault)) =
    some (0x202, .empty, some (.stackUnderflow 0x200)) := by decide
/- STEP-3. -/
theorem test_SYS : after 0x01E0 State.reset (fun t => (t.pc, t.fault)) = some (0x202, none) := by decide
/- FLOW-3. -/
theorem test_JP : after 0x1FFF State.reset (·.pc) = some 0xFFF := by decide
/- FLOW-5, FLOW-6. -/
theorem test_CALL : after 0x2400 ((State.reset.setPc 0x300).setSp (.top 14)) (fun t => (t.pc, t.sp, t.stack[15])) =
    some (0x400, .top 15, 0x302) := by decide
theorem test_CALL_overflow : after 0x2400 ((State.reset.setPc 0x300).setSp (.top 15))
    (fun t => (t.pc, t.sp, t.stack[15], t.fault)) = some (0x302, .top 15, 0, some (.stackOverflow 0x300)) := by decide
/- FLOW-9, FLOW-10. -/
theorem test_SE_imm : (after 0x3312 (start [(3, 0x12)]) (·.pc), after 0x3313 (start [(3, 0x12)]) (·.pc)) =
    (some 0x204, some 0x202) := by decide
/- FLOW-11. -/
theorem test_SNE_imm : (after 0x4312 (start [(3, 0x12)]) (·.pc), after 0x4313 (start [(3, 0x12)]) (·.pc)) =
    (some 0x202, some 0x204) := by decide
/- FLOW-12, FLOW-13. -/
theorem test_SE_reg : (after 0x5120 (start [(1, 9), (2, 9)]) (·.pc), after 0x5120 (start [(1, 9), (2, 8)]) (·.pc)) =
    (some 0x204, some 0x202) := by decide
theorem test_SNE_reg : (after 0x9120 (start [(1, 9), (2, 9)]) (·.pc), after 0x9120 (start [(1, 9), (2, 8)]) (·.pc)) =
    (some 0x202, some 0x204) := by decide
/- ALU-1. -/
theorem test_LD_imm : after 0x6AFF State.reset (fun t => (t.reg 0xA, t.reg 0xB)) = some (0xFF, 0) := by decide
/- ALU-2. -/
theorem test_ADD_imm : after 0x7001 (start [(0, 0xFF), (0xF, 0x55)]) (fun t => (t.reg 0, t.reg 0xF)) =
    some (0, 0x55) := by decide
/- ALU-3. -/
theorem test_LD_reg : after 0x8010 (start [(0, 3), (1, 9)]) (fun t => (t.reg 0, t.reg 1)) = some (9, 9) := by decide
/- ALU-4, ALU-25. -/
theorem test_OR : after 0x8011 (start [(0, 0x0C), (1, 0x0A), (0xF, 0x55)]) (fun t => (t.reg 0, t.reg 0xF)) =
    some (0x0E, 0x55) := by decide
theorem test_OR_VF : after 0x8F11 (start [(0xF, 0x0F), (1, 0xF0)]) (·.reg 0xF) = some 0xFF := by decide
theorem test_AND : after 0x8012 (start [(0, 0x0C), (1, 0x0A), (0xF, 0x55)]) (fun t => (t.reg 0, t.reg 0xF)) =
    some (0x08, 0x55) := by decide
theorem test_XOR : after 0x8013 (start [(0, 0x0C), (1, 0x0A), (0xF, 0x55)]) (fun t => (t.reg 0, t.reg 0xF)) =
    some (0x06, 0x55) := by decide
/- L1.1, ALU-20. -/
theorem test_ADD_reg : after 0x8014 (start [(0, 0xC8), (1, 0x64)]) (fun t => (t.reg 0, t.reg 0xF)) = some (0x2C, 1) := by
  decide
theorem test_ADD_reg_VF : after 0x8F14 (start [(0xF, 0x10), (1, 0xF5)]) (·.reg 0xF) = some 1 := by decide
/- L1.1, ALU-9. -/
theorem test_SUB : after 0x8015 (start [(0, 5), (1, 100)]) (fun t => (t.reg 0, t.reg 0xF)) = some (0xA1, 0) := by decide
theorem test_SUB_equal : after 0x8015 (start [(0, 5), (1, 5)]) (fun t => (t.reg 0, t.reg 0xF)) = some (0, 1) := by decide
/- ALU-14, and ALU-16 with SHIFT_SOURCE = VY. -/
theorem test_SHR : after 0x8016 (start [(0, 0x81)]) (fun t => (t.reg 0, t.reg 0xF)) = some (0x40, 1) := by decide
theorem test_SHR_VY : ran (.shr 0 1) { start [(1, 3)] with params := { defaultParams with shiftSource := .vy } }
    (fun t => (t.reg 0, t.reg 0xF, t.reg 1)) = some (1, 1, 3) := by decide
/- ALU-11, ALU-13. -/
theorem test_SUBN : after 0x8017 (start [(0, 5), (1, 3)]) (fun t => (t.reg 0, t.reg 0xF)) = some (0xFE, 0) := by decide
theorem test_SUBN_equal : after 0x8017 (start [(0, 4), (1, 4)]) (fun t => (t.reg 0, t.reg 0xF)) = some (0, 1) := by decide
/- ALU-17, and ALU-19 with SHIFT_SOURCE = VY. -/
theorem test_SHL : after 0x801E (start [(0, 0xFF)]) (fun t => (t.reg 0, t.reg 0xF)) = some (0xFE, 1) := by decide
theorem test_SHL_VY : ran (.shl 0 1) { start [(0, 1), (1, 0x80)] with params := { defaultParams with shiftSource := .vy } }
    (fun t => (t.reg 0, t.reg 0xF)) = some (0, 1) := by decide
/- MEM-1. -/
theorem test_LD_I : after 0xAFFF State.reset (·.i) = some 0xFFF := by decide
/- FLOW-17. -/
theorem test_JP_V0 : after 0xBFFF (start [(0, 0xFF)]) (·.pc) = some 0x10FE := by decide
/- ALU-26: the draw 0xAB. -/
theorem test_RND : (State.reset.rndWith 0xAB 0 0x0F).reg 0 = 0x0B := by decide
/- L1.8, DRAW-6. -/
theorem test_DRW_wraps : ran (.drw 0 1 1) ((startI 0x300 [(0, 63)]).writeBytes 0x300 [0xFF])
    (fun t => (pixel t.fb 0 63, pixel t.fb 0 0, pixel t.fb 0 6, pixel t.fb 0 7, t.reg 0xF)) =
    some (true, true, true, false, 0) := by decide
theorem test_DRW_collides : ran (.drw 0 1 2)
    (((startI 0x300 []).writeBytes 0x300 [0x80, 0x80]).setFb (setPixel blankFramebuffer 0 0 true))
    (fun t => (pixel t.fb 0 0, pixel t.fb 1 0, t.reg 0xF)) = some (false, true, 1) := by decide
/- KEY-1 to KEY-4, the key state drawn being given. -/
theorem test_SKP : ((start [(1, 5)]).skpWith (some 5) 1).pc = 0x202 ∧ ((start [(1, 5)]).skpWith none 1).pc = 0x200 ∧
    ((start [(1, 0x15)]).skpWith (some 5) 1).pc = 0x200 := by decide
theorem test_SKNP : ((start [(1, 5)]).sknpWith (some 5) 1).pc = 0x200 ∧ ((start [(1, 5)]).sknpWith none 1).pc = 0x202 ∧
    ((start [(1, 5)]).sknpWith (some 6) 1).pc = 0x202 := by decide
/- TMR-4. -/
theorem test_LD_V_DT : ran (.ldVDt 3) (State.reset.setDt 0x3C) (·.reg 3) = some 0x3C := by decide
/- TMR-10. -/
theorem test_LD_DT_V : ran (.ldDtV 0) (State.reset.setDt 50) (fun t => (t.dt, t.st)) = some (0, 0) := by decide
/- TMR-9. -/
theorem test_LD_ST_V : ran (.ldStV 0) (start [(0, 10)]) (fun t => (t.st, t.dt)) = some (10, 0) := by decide
/- KEY-6. -/
theorem test_LD_V_K : after 0xF30A State.reset (fun t => (t.mode, t.pc)) = some (.waitKey 3, 0x202) := by decide
theorem test_LD_V_K_press : (waiting3.press 0xB).reg 3 = 0x0B ∧ (waiting3.press 0xB).mode = .running := by decide
/- MEM-2, MEM-3. -/
theorem test_ADD_I : after 0xF01E (startI 0xFFF0 [(0, 0x20), (0xF, 0x55)]) (fun t => (t.i, t.reg 0xF)) =
    some (0x0010, 0x55) := by decide
theorem test_ADD_I_not_masked : after 0xF01E (startI 0x0FFF [(0, 1)]) (·.i) = some 0x1000 := by decide
/- L1.9, MEM-5. -/
theorem test_LD_F : after 0xF029 (start [(0, 0xF)]) (·.i) = some 0x04B := by decide
theorem test_LD_F_not_masked : after 0xF029 (start [(0, 0xFF)]) (·.i) = some 0x4FB := by decide
/- L1.6, MEM-10. -/
theorem test_LD_B : after 0xF533 (startI 0x300 [(5, 157)]) (fun t => (t.readBytes 0x300 4, t.i)) =
    some ([1, 5, 7, 0], 0x300) := by decide
theorem test_LD_B_oob : after 0xF033 (startI 0xFFE [(0, 123)]) (fun t => (t.byteAt 0xFFE, t.fault)) =
    some (0, some (.memOob 0x1000)) := by decide
/- MEM-13, MEM-12. -/
theorem test_LD_MEM_V : after 0xF055 (startI 0x300 [(0, 9), (1, 8)]) (fun t => (t.readBytes 0x300 2, t.i)) =
    some ([9, 0], 0x300) := by decide
theorem test_LD_MEM_V_oob : after 0xFF55 (startI 0xFF1 [(0, 9)]) (fun t => (t.byteAt 0xFF1, t.fault)) =
    some (0, some (.memOob 0x1000)) := by decide
/- MEM-14, MEM-16 (two of its registers). -/
theorem test_LD_V_MEM : after 0xF065 ((startI 0x300 [(1, 3)]).writeBytes 0x300 [0xAA, 0xBB])
    (fun t => (t.reg 0, t.reg 1, t.i)) = some (0xAA, 3, 0x300) := by decide
theorem test_LD_V_MEM_all : after 0xFF65 ((startI 0xFF0 []).writeBytes 0xFFF [0x10])
    (fun t => (t.reg 0, t.reg 0xF, t.fault)) = some (0, 0x10, none) := by decide

/-! The other agents. -/

/- TMR-1, TMR-2. -/
theorem test_tick : (((State.reset.setDt 1).setSt 2).tick.dt, ((State.reset.setDt 1).setSt 2).tick.st) = (0, 1) := by
  decide
theorem test_tick_floor : State.reset.tick.dt = 0 := by decide
/- KEY-9. -/
theorem test_dispose_wait : waiting3.disposeReply = some (.fail .disposed) ∧ (waiting3.dispose.press 4).reg 3 = 0x77 := by
  decide
/- HOST-5. -/
theorem test_load_twice : (runEvents [.loadProgram [0x12, 0x00], .loadProgram [0x60]] State.reset).map
    (fun t => (t.readBytes 0x200 2, t.pc)) = some ([0x60, 0x00], 0x200) := by decide
/- STEP-11: a failed call changes nothing, ticks go on after it, and the machine can still be disposed of (R309). -/
theorem test_events_after_fault : (runEvents [.call, .tick, .call, .dispose, .call, .tick]
    ((State.reset.setDt 9).latch (.pcOob 0x1000))).map (fun t => (t.dt, t.disposed, t.fault)) =
    some (8, true, some (.pcOob 0x1000)) := by decide
/- Writing the reset contents unlists the byte, so equal memories are equal data (log 9). -/
theorem test_memory_canonical :
    ((State.reset.writeByte 0x300 7).writeByte 0 0xF0).writeByte 0x300 0 = State.reset := by decide

/-! Witnesses: for each statement with hypotheses, a state and operands that meet all of them, and each clause at a
boundary of its range. -/

/-- A ready machine with a word at PC. -/
def ready (w : Nat) : State := State.reset.withFetchWord 16 w

theorem ready_reset : State.reset.Ready := ⟨rfl, rfl, rfl⟩

theorem ready_word (w : Nat) : (ready w).CanFetch := ⟨⟨rfl, rfl, rfl⟩, show State.reset.pc.toNat ≤ pcFetchMax by decide⟩

theorem witness_DecodeEncodeAgree : (Instr.sys 0x1E0).wf = true ∧ (Instr.drw 1 2 5).wf = true := by decide
theorem witness_EncodeDecodeAgree : decode 0xF265 = .instr (.ldVMem 2) := by decide
theorem witness_DecoderFollowsOpcodeMap : decode 0x8AB6 = .instr (.shr 0xA 0xB) ∧ decode 0x8018 = .undefined 0x8018 := by
  decide
theorem witness_UndefinedEncodings : UndefinedWord 0x5011 ∧ UndefinedWord 0x8AFD ∧ UndefinedWord 0xE19F ∧
    UndefinedWord 0xF156 ∧ ¬ UndefinedWord 0x0000 := by
  unfold UndefinedWord
  exact ⟨by decide, by decide, by decide, by decide, by decide⟩
theorem witness_StepRuns_instr : (ready 0x6A9D).CanFetch ∧ decode (ready 0x6A9D).fetch16 = .instr (.ldImm 0xA 0x9D) :=
  ⟨ready_word _, by decide⟩
theorem witness_StepRuns_undefined : (ready 0x5011).CanFetch ∧ decode (ready 0x5011).fetch16 = .undefined 0x5011 :=
  ⟨ready_word _, by decide⟩
theorem witness_CanFetch_last : (State.reset.setPc 0xFFE).CanFetch := ⟨⟨rfl, rfl, rfl⟩, by decide⟩
theorem witness_PcOutOfBounds : (State.reset.setPc 0xFFF).Ready ∧ 0xFFE < (State.reset.setPc 0xFFF).pc.toNat :=
  ⟨⟨rfl, rfl, rfl⟩, by decide⟩
theorem witness_StepStops_disposed : State.reset.dispose.disposed = true := rfl
theorem witness_StepStops_latched : (State.reset.latch (.pcOob 0x1000)).disposed = false ∧
    (State.reset.latch (.pcOob 0x1000)).fault = some (.pcOob 0x1000) := ⟨rfl, rfl⟩
theorem witness_CallReplies : replyOf (ready 0xF30A).hostCall = some .pending ∧ replyOf (ready 0x6001).hostCall = some .ok ∧
    replyOf (ready 0x00EE).hostCall = some (.fail (.latched (.stackUnderflow 0x200))) := by decide
theorem witness_CallReplies_waiting : waiting3.waiting = true := rfl
theorem witness_FieldBounds : (opcode 0xFFFF).toNat = 15 ∧ (fieldNNN 0xFFFF).toNat = 4095 ∧ (fieldKK 0xFFFF).toNat = 255 := by
  decide

theorem witness_EncodedBy_F000 : (0x6A9D : Word) &&& 0xF000 = 0x6000 := by decide
theorem witness_EncodedBy_F00F : (0x8AB6 : Word) &&& 0xF00F = 0x8006 := by decide
theorem witness_EncodedBy_F0FF : (0xF265 : Word) &&& 0xF0FF = 0xF065 := by decide
theorem witness_AddAndSubtract : (0xE : RegNum) ≠ regF := by decide
theorem witness_Skips_wrap : (0xFFFE#16 : Word) + 2#16 = 0#16 := by decide
theorem witness_Call_empty : State.reset.sp.toInt < 15 := by decide
theorem witness_Call_14 : (State.reset.setSp (.top 14)).sp.toInt < 15 := by decide
theorem witness_Call_15 : (State.reset.setSp (.top 15)).sp.toInt = 15 := by decide
theorem witness_Return_0 : (State.reset.setSp (.top 0)).sp.toInt = ((0 : Fin 16).val : Int) := by decide
theorem witness_Return_15 : (State.reset.setSp (.top 15)).sp.toInt = ((15 : Fin 16).val : Int) := by decide
theorem witness_Return_empty : State.reset.sp.toInt = -1 := by decide
theorem witness_CallThenReturn : State.reset.sp.toInt < 15 ∧
    (State.reset.push 0 0x202).sp = .top 0 ∧ (State.reset.push 0 0x202).stack[0] = 0x202 := by decide
theorem witness_NoOps : (opcode 0x01E0).toNat = 0 ∧ (0x01E0 : Word) ≠ 0x00E0 ∧ (0x01E0 : Word) ≠ 0x00EE ∧
    decode (ready 0x01E0).fetch16 = .instr (.sys 0x1E0) ∧ decode (ready 0x9011).fetch16 = .undefined 0x9011 := by decide
theorem witness_NoOps_last : ((State.reset.setPc 0xFFE).withFetchWord 16 0x0000).CanFetch ∧
    decode ((State.reset.setPc 0xFFE).withFetchWord 16 0x0000).fetch16 = .instr (.sys 0) :=
  ⟨⟨⟨rfl, rfl, rfl⟩, by decide⟩, by decide⟩
theorem witness_SelfJump : (ready 0x1200).AtSelfJump := ⟨ready_word _, 0x200, by decide, by decide⟩

theorem witness_Sprite_last : SpriteInside (startI 0xFFB []) 5 := Or.inr (by decide)
theorem witness_Sprite_zero : SpriteInside (startI 0xFFFF []) 0 := Or.inl (by decide)
theorem witness_SpriteBit : SpriteBitAt (start [(0, 63)]) 0 1 5 0 0 := ⟨0, 1, by decide⟩
theorem witness_Collision : ∃ r c, SpriteBitAt (State.reset.setFb (setPixel blankFramebuffer 0 0 true)) 0 1 5 r c ∧
    pixel (setPixel blankFramebuffer 0 0 true) r c = true := ⟨0, 0, ⟨0, 0, by decide⟩, by decide⟩
theorem witness_NoCollision : ¬ ∃ r c, SpriteBitAt State.reset 0 1 5 r c ∧ pixel State.reset.fb r c = true := by
  rintro ⟨r, c, -, h⟩
  rw [show State.reset.fb = blankFramebuffer from rfl, pixel_blank] at h
  exact absurd h (by decide)
theorem witness_CollisionFlag : pixel (setPixel blankFramebuffer 0 0 true) 0 0 = true ∧
    ran (.drw 0 1 5) (State.reset.setFb (setPixel blankFramebuffer 0 0 true)) (pixel ·.fb 0 0) = some false := by decide
theorem witness_DrawTwice : (0 : RegNum) ≠ regF ∧ (1 : RegNum) ≠ regF ∧ SpriteInside State.reset 5 :=
  ⟨by decide, by decide, Or.inr (by decide)⟩
theorem witness_Bcd_last : (startI 0xFFD []).i.toNat + 2 < 0x1000 := by decide
theorem witness_Block_last : (startI 0xFF0 []).i.toNat + (0xF : RegNum).toNat < 0x1000 := by decide
theorem witness_Block_one : (startI 0xFFF []).i.toNat + (0 : RegNum).toNat < 0x1000 := by decide
theorem witness_DataOutOfBounds_drw : (5 : Nibble).toNat ≠ 0 ∧ 0x1000 < (startI 0xFFC []).i.toNat + (5 : Nibble).toNat := by
  decide
theorem witness_DataOutOfBounds_bcd : 0x1000 ≤ (startI 0xFFE []).i.toNat + 2 := by decide
theorem witness_DataOutOfBounds_block : 0x1000 ≤ (startI 0xFF1 []).i.toNat + (0xF : RegNum).toNat := by decide
theorem witness_CanonicalMemory : Memory.wf defaultParams [(0, 7), (0x300, 1)] := by decide

theorem witness_Tick : State.reset.disposed = false ∧ State.reset.dispose.disposed = true := ⟨rfl, rfl⟩
theorem witness_DelayTimer : (start [(0, 5)]).disposed = false := rfl
theorem witness_KeySkips : NamesKey (some 5) ((start [(1, 5)]).reg 1) ∧ ¬ NamesKey none ((start [(1, 5)]).reg 1) ∧
    ¬ NamesKey (some 5) ((start [(1, 0x15)]).reg 1) := by
  refine ⟨⟨5, rfl, by decide⟩, fun h => ?_, fun h => ?_⟩
  · obtain ⟨c, h, -⟩ := h; cases h
  · obtain ⟨c, h, hc⟩ := h; cases h; exact absurd hc (by decide)
theorem witness_KeyWait : State.reset.disposed = false ∧ State.reset.mode = .running := ⟨rfl, rfl⟩
theorem witness_Pending : waiting3.waiting = true ∧ waiting3.mode = .waitKey 3 := ⟨rfl, rfl⟩
theorem witness_OnlyKeyWait : (∀ x, Instr.cls ≠ .ldVK x) ∧ exec .cls State.reset = .next (State.reset.setFb blankFramebuffer) :=
  ⟨fun _ h => (nomatch h), rfl⟩
theorem witness_Disposed : State.reset.dispose.disposed = true ∧
    react .getDisplay State.reset.dispose = .next State.reset.dispose := ⟨rfl, rfl⟩
theorem witness_DisposeCancels : waiting3.waiting = true := rfl
theorem witness_Load : State.reset.disposed = false ∧ State.reset.stepped = false ∧
    (List.replicate 0xE00 (0 : Byte)).length ≤ 0xE00 ∧ 0xE00 < (List.replicate 0xE01 (0 : Byte)).length :=
  ⟨rfl, rfl, by rw [List.length_replicate], by rw [List.length_replicate]; decide⟩
theorem witness_Load_stepped : State.reset.setStepped.disposed = false ∧ State.reset.setStepped.stepped = true := ⟨rfl, rfl⟩
theorem witness_Load_step : State.reset.Ready ∧ ∃ t, step State.reset = .next t :=
  ⟨ready_reset, by rw [step_ready ready_reset]; exact cycle_answers_next _⟩
theorem witness_Latched : (State.reset.latch (.stackOverflow 0x200)).fault = some (.stackOverflow 0x200) ∧
    (State.reset.latch (.stackOverflow 0x200)).disposed = false ∧
    ∃ t, react .tick (State.reset.latch (.stackOverflow 0x200)) = .next t := ⟨rfl, rfl, _, rfl⟩
theorem witness_Writers : exec (.addReg 0 1) (start [(1, 5)]) = .next ((start [(1, 5)]).setRegFlag 0 (5, false)) ∧
    (2 : RegNum) ∉ writtenRegs (.addReg 0 1) := ⟨rfl, by decide⟩
theorem witness_OtherWriters_pc : ∃ t, exec (.jp 0x300) State.reset = .next t ∧ t.pc ≠ State.reset.pc :=
  ⟨_, rfl, by decide⟩
theorem witness_OtherWriters_mode : ∃ t, exec (.ldVK 3) State.reset = .next t ∧ t.mode ≠ State.reset.mode :=
  ⟨_, rfl, by decide⟩
theorem witness_OtherWriters : ∃ t, exec (.ldI 0x300) State.reset = .next t ∧ t.i ≠ State.reset.i :=
  ⟨_, rfl, by decide⟩
theorem witness_Inv : State.reset.Inv :=
  ⟨reset_mem_wf, by decide, fun _ _ => by simp [State.reset], fun _ => rfl⟩
theorem witness_StepKeepsInvariant : State.reset.Inv ∧ ∃ t, step State.reset = .next t := ⟨witness_Inv, witness_Load_step.2⟩
theorem witness_EventsKeepInvariant : State.reset.Inv ∧
    ∃ t, runEvents [.tick, .press 5, .getDisplay, .dispose, .call, .tick] State.reset = some t := ⟨witness_Inv, _, rfl⟩
theorem witness_FailedCall_disposed : react .call State.reset.dispose = .fault .disposed := rfl
theorem witness_FailedCall_latched : react .call (State.reset.latch (.pcOob 0x1000)) =
    .fault (.latched (.pcOob 0x1000)) := rfl
theorem witness_FailedCall_load : react (.loadProgram (List.replicate 0xE01 0)) State.reset =
    .fault (.loadTooLarge 0xE01) :=
  (load_tooLarge rfl rfl (by rw [List.length_replicate]; decide)).trans (by rw [List.length_replicate])
theorem witness_NoMove : runEvents [.call] waiting3 = none ∧
    runEvents [.loadProgram []] State.reset.dispose = none ∧ runEvents [.loadProgram []] State.reset.setStepped = none :=
  ⟨rfl, rfl, rfl⟩
theorem witness_Interleaving : State.reset.waiting = false ∧ waiting3.waiting = true := ⟨rfl, rfl⟩
theorem witness_SoundTimer : withoutSt (State.reset.setSt 3) = withoutSt (State.reset.setSt 9) ∧
    State.reset.setSt 3 ≠ State.reset.setSt 9 := ⟨rfl, by decide⟩

end Sys2Proof.Tests
end

section
/-! PROOFS. `dispose()` and the disposed machine (spec/10_state.md R31, spec/60_exceptions.md R315): what `dispose()`
leaves alone, and what each call and event does on a machine that is disposed. -/

namespace Sys2Proof.Machine

/-! What `dispose()` leaves: the flag and the mode change, nothing else does. -/

@[simp] theorem dispose_disposed (s : State) : s.dispose.disposed = true := by
  unfold State.dispose
  split
  · assumption
  · rfl

theorem dispose_of_disposed {s : State} (h : s.disposed = true) : s.dispose = s := by
  simp [State.dispose, h]

/-- Whatever the update of the flag and the mode leaves alone, `dispose()` leaves alone, on a disposed machine too. -/
theorem dispose_keeps {α : Type} (f : State → α) (s : State) (h : f (s.setDisposed.setMode .running) = f s) :
    f s.dispose = f s := by
  unfold State.dispose
  split
  · rfl
  · exact h

@[simp] theorem dispose_mem (s : State) : s.dispose.mem = s.mem := dispose_keeps State.mem s rfl
@[simp] theorem dispose_v (s : State) : s.dispose.v = s.v := dispose_keeps State.v s rfl
@[simp] theorem dispose_i (s : State) : s.dispose.i = s.i := dispose_keeps State.i s rfl
@[simp] theorem dispose_pc (s : State) : s.dispose.pc = s.pc := dispose_keeps State.pc s rfl
@[simp] theorem dispose_sp (s : State) : s.dispose.sp = s.sp := dispose_keeps State.sp s rfl
@[simp] theorem dispose_stack (s : State) : s.dispose.stack = s.stack := dispose_keeps State.stack s rfl
@[simp] theorem dispose_fb (s : State) : s.dispose.fb = s.fb := dispose_keeps State.fb s rfl
@[simp] theorem dispose_dt (s : State) : s.dispose.dt = s.dt := dispose_keeps State.dt s rfl
@[simp] theorem dispose_st (s : State) : s.dispose.st = s.st := dispose_keeps State.st s rfl

/-! A disposed machine: the entry check rejects every step, and no agent has an effect. -/

theorem entryFault_of_disposed {s : State} (h : s.disposed = true) : s.entryFault = some .disposed := by
  simp [State.entryFault, h]

/-- The host's call fails with whatever the entry checks find (R120). -/
theorem hostCall_stopped {s : State} {f : Fault} (h : s.entryFault = some f) : s.hostCall = .fault f := by
  simp [State.hostCall, h]

theorem tick_of_disposed {s : State} (h : s.disposed = true) : s.tick = s := by
  simp [State.tick, h]

theorem press_of_disposed {s : State} (h : s.disposed = true) (k : Key) : s.press k = s := by
  unfold State.press
  split
  · rfl
  · simp [h]

theorem load_of_disposed {s : State} (h : s.disposed = true) (bytes : List Byte) :
    s.load bytes = .refused .loadAfterDispose := by
  simp [State.load, h]

/-- No event changes a disposed machine: each one fails, has no move, or leaves the state as it is. -/
theorem react_of_disposed {s t : State} {e : Event} (h : s.disposed = true) (ht : react e s = .next t) : t = s := by
  cases e with
  | call =>
    have hc : s.hostCall = .next t := ht
    rw [hostCall_stopped (entryFault_of_disposed h)] at hc
    cases hc
  | tick => cases ht; exact tick_of_disposed h
  | press k => cases ht; exact press_of_disposed h k
  | loadProgram bytes =>
    have hl : s.load bytes = .next t := ht
    rw [load_of_disposed h] at hl
    cases hl
  | getDisplay => cases ht; rfl
  | dispose => cases ht; exact dispose_of_disposed h

/-- Settles O47: the frame of `dispose()`, the entry check that rejects each step, and the case split over events. -/
theorem disposedIsTerminal : Obligations.DisposedIsTerminal := by
  refine ⟨rfl, fun s => ?_, fun s h => ?_, fun e s t h ht => react_of_disposed h ht⟩
  · have hagain : s.dispose.dispose = s.dispose := dispose_of_disposed (dispose_disposed s)
    simp [hagain]
  · have hentry := entryFault_of_disposed h
    exact ⟨step_stopped hentry, hostCall_stopped hentry, tick_of_disposed h⟩

end Sys2Proof.Machine
end

section
/-! PROOFS. The fields of a word as numbers (spec/30_encoding.md R91): a cut of `len` bits from bit `start` upwards is a
division and a remainder. -/

namespace Sys2Proof

/-- Bits `start + len - 1 : start` of a word, as an unsigned number. -/
theorem toNat_extract {m : Nat} (w : BitVec m) (start len : Nat) :
    (w.extractLsb' start len).toNat = w.toNat / 2 ^ start % 2 ^ len := by
  rw [BitVec.extractLsb'_toNat, Nat.shiftRight_eq_div_pow]

/-- A cut from bit 0 upwards needs no division. -/
theorem toNat_extract_zero {m : Nat} (w : BitVec m) (len : Nat) :
    (w.extractLsb' 0 len).toNat = w.toNat % 2 ^ len := by
  rw [toNat_extract, Nat.pow_zero, Nat.div_one]

/-- The opcode is the topmost field, so its remainder is the quotient itself. -/
theorem toNat_opcode (w : Word) : (opcode w).toNat = w.toNat / 4096 := by
  have hcut : (opcode w).toNat = w.toNat / 4096 % 16 := toNat_extract w 12 4
  have hword : w.toNat < 65536 := w.isLt
  omega

theorem toNat_fieldNNN (w : Word) : (fieldNNN w).toNat = w.toNat % 4096 := toNat_extract_zero w 12

theorem toNat_fieldN (w : Word) : (fieldN w).toNat = w.toNat % 16 := toNat_extract_zero w 4

theorem toNat_fieldX (w : Word) : (fieldX w).toNat = w.toNat / 256 % 16 := toNat_extract w 8 4

theorem toNat_fieldY (w : Word) : (fieldY w).toNat = w.toNat / 16 % 16 := toNat_extract w 4 4

theorem toNat_fieldKK (w : Word) : (fieldKK w).toNat = w.toNat % 256 := toNat_extract_zero w 8

/-- Settles O5: the six fields one by one, each a cut from the word. -/
theorem fieldsAreCutFromTheWord : Obligations.FieldsAreCutFromTheWord := fun w =>
  ⟨toNat_opcode w, toNat_fieldNNN w, toNat_fieldN w, toNat_fieldX w, toNat_fieldY w, toNat_fieldKK w⟩

end Sys2Proof
end

section
/-! PROOFS. `00E0` and the collision flag of `Dxyn` (spec/41_display.md R151, R155): what clearing the screen leaves
alone, and the flag of a drawing as a comparison of the screen before with the screen after. -/

namespace Sys2Proof.Machine

open Sys2Proof.Spec

/-! Clearing the screen. -/

theorem exec_cls (s : State) : exec .cls s = .next (s.setFb blankFramebuffer) := rfl

theorem pixelList_blank : pixelList blankFramebuffer = List.replicate 2048 false := by
  simp [pixelList, blankFramebuffer]

/-- A write of the framebuffer changes nothing else. -/
theorem untouched_setFb (s : State) (fb : Framebuffer) : Untouched { fb := true } s (s.setFb fb) where
  regs _ _ := rfl
  bytes _ _ := rfl
  i _ := rfl
  pc _ := rfl
  stack _ := ⟨rfl, rfl⟩
  dt _ := rfl
  st _ := rfl
  fb h := nomatch h
  disposed := rfl
  mode _ := rfl
  fault _ := rfl
  params := rfl
  draws _ := rfl
  stepped _ := rfl

/-- Settles O25: `CLS` writes the blank framebuffer, whose pixels are all false in both views of it. -/
theorem clearScreen : Obligations.ClearScreen :=
  ⟨by decide, fun s => ⟨s.setFb blankFramebuffer, exec_cls s, pixel_blank, pixelList_blank, untouched_setFb s _⟩⟩

/-! The collision flag. -/

theorem pixel_drawSprite (bytes : List Byte) (xs ys : Nat) (fb : Framebuffer) (r : Fin 32) (c : Fin 64)
    (hl : bytes.length ≤ 32) :
    pixel (drawSprite bytes xs ys fb).1 r c = (pixel fb r c ^^ spriteHit bytes xs ys r c) :=
  pixel_drawRows bytes xs ys r c (fb, false) hl

/-- The flag looks at the screen before the drawing: a set bit lands on a set pixel. -/
theorem coll_drawSprite (bytes : List Byte) (xs ys : Nat) (fb : Framebuffer) (hl : bytes.length ≤ 32) :
    (drawSprite bytes xs ys fb).2 = true ↔ ∃ r c, spriteHit bytes xs ys r c = true ∧ pixel fb r c = true := by
  simpa [drawSprite] using coll_drawRows bytes xs ys (fb, false) hl

/-- A set pixel is clear after the drawing exactly when a set bit lands on it. -/
theorem cleared_drawSprite_iff (bytes : List Byte) (xs ys : Nat) (fb : Framebuffer) (r : Fin 32) (c : Fin 64)
    (hl : bytes.length ≤ 32) :
    (pixel fb r c = true ∧ pixel (drawSprite bytes xs ys fb).1 r c = false) ↔
      (spriteHit bytes xs ys r c = true ∧ pixel fb r c = true) := by
  rw [pixel_drawSprite bytes xs ys fb r c hl]
  cases pixel fb r c <;> simp

/-- The flag compares the screen before with the screen after: some set pixel is cleared. No pixel is toggled twice by
one sprite of at most 32 rows (R160), so the order of the bits does not matter. -/
theorem coll_drawSprite_iff_cleared (bytes : List Byte) (xs ys : Nat) (fb : Framebuffer) (hl : bytes.length ≤ 32) :
    (drawSprite bytes xs ys fb).2 = true ↔
      ∃ r c, pixel fb r c = true ∧ pixel (drawSprite bytes xs ys fb).1 r c = false := by
  simp only [coll_drawSprite bytes xs ys fb hl, cleared_drawSprite_iff bytes xs ys fb _ _ hl]

/-- The flag of the sprite of `Dxyn`, which has at most 15 rows. -/
theorem coll_sprite_iff_cleared (s : State) (x y : RegNum) (n : Nibble) :
    (s.sprite x y n).2 = true ↔ ∃ r c, pixel s.fb r c = true ∧ pixel (s.sprite x y n).1 r c = false := by
  have hrows : (s.readBytes s.i.toNat n.toNat).length ≤ 32 := by
    rw [readBytes_length]
    omega
  exact coll_drawSprite_iff_cleared _ _ _ _ hrows

/-- `Dxyn` draws when its sprite addresses are inside memory (R158). -/
theorem exec_drw_inside {s : State} (x y : RegNum) {n : Nibble} (h : SpriteInside s n) :
    exec (.drw x y n) s = .next ((s.setFb (s.sprite x y n).1).setReg regF (flagByte (s.sprite x y n).2)) :=
  execDrw_inside x y (oobAddress_none_iff.mpr h)

/-- A flag byte is 1 when what the flag stands for holds, and 0 when it does not. -/
theorem flagByte_of_iff {f : Bool} {p : Prop} (h : f = true ↔ p) :
    (p → flagByte f = 1#8) ∧ (¬ p → flagByte f = 0#8) := by
  constructor <;> intro hp
  · rw [h.mpr hp]
    rfl
  · rw [Bool.eq_false_iff.mpr (mt h.mp hp)]
    rfl

/-- Settles O27: VF is the byte of the sprite's flag, and the flag says whether some set pixel was cleared. -/
theorem collisionFlagIsOrOverAllBits : Obligations.CollisionFlagIsOrOverAllBits := by
  intro s x y n hin
  refine ⟨_, exec_drw_inside x y hin, ?_⟩
  rw [reg_setReg_same]
  exact flagByte_of_iff (coll_sprite_iff_cleared s x y n)

end Sys2Proof.Machine
end

section
/-! PROOFS. The jumps and the four skips (spec/42_control_flow.md R171, R173 to R177): each is a write of PC alone, and
each pattern fixes the arm of the decoder. -/

namespace Sys2Proof.Machine

open Sys2Proof.Spec

/-- A write of PC changes nothing else. -/
theorem untouched_setPc (s : State) (a : Word) : Untouched { pc := true } s (s.setPc a) where
  regs _ _ := rfl
  bytes _ _ := rfl
  i _ := rfl
  pc h := nomatch h
  stack _ := ⟨rfl, rfl⟩
  dt _ := rfl
  st _ := rfl
  fb _ := rfl
  disposed := rfl
  mode _ := rfl
  fault _ := rfl
  params := rfl
  draws _ := rfl
  stepped _ := rfl

/-! The jumps. -/

theorem exec_jp (nnn : Addr12) (s : State) : exec (.jp nnn) s = .next (s.setPc (zextAddr nnn)) := rfl

theorem exec_jpV0 (nnn : Addr12) (s : State) : exec (.jpV0 nnn) s = .next (s.setPc (s.v0Target nnn)) := rfl

theorem toNat_zextAddr (nnn : Addr12) : (zextAddr nnn).toNat = nnn.toNat :=
  BitVec.toNat_setWidth_of_le (by decide)

theorem toNat_zextByte (b : Byte) : (zextByte b).toNat = b.toNat :=
  BitVec.toNat_setWidth_of_le (by decide)

/-- The sum of R177 is taken mod 2^16. -/
theorem toNat_v0Target (s : State) (nnn : Addr12) :
    (s.v0Target nnn).toNat = (nnn.toNat + (s.reg 0).toNat) % 65536 := by
  rw [State.v0Target, BitVec.toNat_add, toNat_zextAddr, toNat_zextByte]
  rfl

theorem encodedBy_jp : EncodedBy 0xF000 0x1000 (fun w => .jp (fieldNNN w)) := fun w h => by
  rw [decode, opcode_of_mask h]
  rfl

theorem encodedBy_jpV0 : EncodedBy 0xF000 0xB000 (fun w => .jpV0 (fieldNNN w)) := fun w h => by
  rw [decode, opcode_of_mask h]
  rfl

/-- Settles O18: both jumps write PC only, and their targets are read as numbers. -/
theorem jumpsSetPc : Obligations.JumpsSetPc :=
  ⟨encodedBy_jp, encodedBy_jpV0, fun s nnn =>
    ⟨⟨_, exec_jp nnn s, toNat_zextAddr nnn, untouched_setPc s _⟩,
     ⟨_, exec_jpV0 nnn s, toNat_v0Target s nnn, untouched_setPc s _⟩⟩⟩

/-! The skips. -/

/-- A skip writes PC only. -/
theorem untouched_skipIf (s : State) (c : Bool) : Untouched { pc := true } s (s.skipIf c) := untouched_setPc s _

/-- PC after a skip whose Boolean test decides `p`: one word more, mod 2^16, exactly when `p` holds. -/
theorem toNat_pc_skipIf (s : State) {c : Bool} {p : Prop} [Decidable p] (h : c = true ↔ p) :
    (s.skipIf c).pc.toNat = if p then (s.pc.toNat + 2) % 65536 else s.pc.toNat := by
  rw [skipIf_pc, ← if_congr h rfl rfl]
  cases c
  · rfl
  · exact BitVec.toNat_add s.pc 2#16

/-- An instruction that is a skip on a test of `p` completes, writes PC only, and skips exactly when `p` holds. -/
theorem skips_of_exec {i : Instr} {s : State} {c : Bool} {p : Prop} [Decidable p]
    (hexec : exec i s = .next (s.skipIf c)) (h : c = true ↔ p) :
    ∃ t, exec i s = .next t ∧ Untouched { pc := true } s t ∧
      t.pc.toNat = if p then (s.pc.toNat + 2) % 65536 else s.pc.toNat :=
  ⟨_, hexec, untouched_skipIf s c, toNat_pc_skipIf s h⟩

theorem exec_seImm (x : RegNum) (kk : Byte) (s : State) :
    exec (.seImm x kk) s = .next (s.skipIf (s.reg x == kk)) := rfl

theorem exec_sneImm (x : RegNum) (kk : Byte) (s : State) :
    exec (.sneImm x kk) s = .next (s.skipIf (s.reg x != kk)) := rfl

theorem exec_seReg (x y : RegNum) (s : State) :
    exec (.seReg x y) s = .next (s.skipIf (s.reg x == s.reg y)) := rfl

theorem exec_sneReg (x y : RegNum) (s : State) :
    exec (.sneReg x y) s = .next (s.skipIf (s.reg x != s.reg y)) := rfl

theorem encodedBy_seImm : EncodedBy 0xF000 0x3000 (fun w => .seImm (fieldX w) (fieldKK w)) := fun w h => by
  rw [decode, opcode_of_mask h]
  rfl

theorem encodedBy_sneImm : EncodedBy 0xF000 0x4000 (fun w => .sneImm (fieldX w) (fieldKK w)) := fun w h => by
  rw [decode, opcode_of_mask h]
  rfl

/-- The pattern fixes `n` to 0 as well, which family 5 asks for (R95). -/
theorem encodedBy_seReg : EncodedBy 0xF00F 0x5000 (fun w => .seReg (fieldX w) (fieldY w)) := fun w h => by
  obtain ⟨hop, hn⟩ := fields_of_mask_F00F h
  rw [decode, hop]
  exact if_pos hn

/-- The pattern fixes `n` to 0 as well, which family 9 asks for (R95). -/
theorem encodedBy_sneReg : EncodedBy 0xF00F 0x9000 (fun w => .sneReg (fieldX w) (fieldY w)) := fun w h => by
  obtain ⟨hop, hn⟩ := fields_of_mask_F00F h
  rw [decode, hop]
  exact if_pos hn

/-- Settles O19: each of the four is a skip on a Boolean test that decides its comparison. -/
theorem skipsCompareAndSkip : Obligations.SkipsCompareAndSkip :=
  ⟨encodedBy_seImm, encodedBy_sneImm, encodedBy_seReg, encodedBy_sneReg, fun s x y kk =>
    ⟨skips_of_exec (exec_seImm x kk s) beq_iff_eq, skips_of_exec (exec_sneImm x kk s) bne_iff_ne,
     skips_of_exec (exec_seReg x y s) beq_iff_eq, skips_of_exec (exec_sneReg x y s) bne_iff_ne⟩⟩

end Sys2Proof.Machine
end

section
/-! PROOFS. `6xkk` and `7xkk` (spec/43_alu.md R201, R202): each is a write of `V[x]` alone. -/

namespace Sys2Proof.Machine

open Sys2Proof.Spec

/-- A write of one register changes nothing else. -/
theorem untouched_setReg (s : State) (x : RegNum) (b : Byte) : Untouched { regs := [x] } s (s.setReg x b) where
  regs _ h := reg_setReg_other s b (List.ne_of_not_mem_cons h)
  bytes _ _ := rfl
  i _ := rfl
  pc _ := rfl
  stack _ := ⟨rfl, rfl⟩
  dt _ := rfl
  st _ := rfl
  fb _ := rfl
  disposed := rfl
  mode _ := rfl
  fault _ := rfl
  params := rfl
  draws _ := rfl
  stepped _ := rfl

/-- An instruction that is a write of `V[x]` completes, leaves in `V[x]` what is known of the byte written, and changes
nothing else. -/
theorem writes_of_exec {i : Instr} {s : State} {x : RegNum} {b : Byte} {p : Byte → Prop}
    (hexec : exec i s = .next (s.setReg x b)) (hb : p b) :
    ∃ t, exec i s = .next t ∧ p (t.reg x) ∧ Untouched { regs := [x] } s t :=
  ⟨_, hexec, (reg_setReg_same s x b).symm ▸ hb, untouched_setReg s x b⟩

theorem exec_ldImm (x : RegNum) (kk : Byte) (s : State) : exec (.ldImm x kk) s = .next (s.setReg x kk) := rfl

theorem exec_addImm (x : RegNum) (kk : Byte) (s : State) :
    exec (.addImm x kk) s = .next (s.setReg x (s.reg x + kk)) := rfl

theorem encodedBy_ldImm : EncodedBy 0xF000 0x6000 (fun w => .ldImm (fieldX w) (fieldKK w)) := fun w h => by
  rw [decode, opcode_of_mask h]
  rfl

theorem encodedBy_addImm : EncodedBy 0xF000 0x7000 (fun w => .addImm (fieldX w) (fieldKK w)) := fun w h => by
  rw [decode, opcode_of_mask h]
  rfl

/-- Settles O13: both instructions write `V[x]` only, the load `kk` itself and the add the sum mod 2^8. -/
theorem immediateLoadAndAdd : Obligations.ImmediateLoadAndAdd :=
  ⟨encodedBy_ldImm, encodedBy_addImm, fun s x kk =>
    ⟨writes_of_exec (p := (· = kk)) (exec_ldImm x kk s) rfl,
     writes_of_exec (p := fun b => b.toNat = ((s.reg x).toNat + kk.toNat) % 256) (exec_addImm x kk s)
       (BitVec.toNat_add (s.reg x) kk)⟩⟩

end Sys2Proof.Machine
end

section
/-! PROOFS. `Annn` and `Fx29` (spec/44_index_memory.md R240, R242): each is a write of I alone. -/

namespace Sys2Proof.Machine

open Sys2Proof.Spec

/-- A write of I changes nothing else. -/
theorem untouched_setI (s : State) (a : Word) : Untouched { i := true } s (s.setI a) where
  regs _ _ := rfl
  bytes _ _ := rfl
  i h := nomatch h
  pc _ := rfl
  stack _ := ⟨rfl, rfl⟩
  dt _ := rfl
  st _ := rfl
  fb _ := rfl
  disposed := rfl
  mode _ := rfl
  fault _ := rfl
  params := rfl
  draws _ := rfl
  stepped _ := rfl

theorem exec_ldI (nnn : Addr12) (s : State) : exec (.ldI nnn) s = .next (s.setI (zextAddr nnn)) := rfl

theorem exec_ldF (x : RegNum) (s : State) : exec (.ldF x) s = .next (s.setI (glyphAddr (s.reg x))) := rfl

/-- Five times a byte is at most 1275, so the product mod 2^16 is the product itself. -/
theorem toNat_glyphAddr (b : Byte) : (glyphAddr b).toNat = b.toNat * 5 := by
  have hprod : (glyphAddr b).toNat = b.toNat * 5 % 65536 := by
    rw [glyphAddr, BitVec.toNat_mul, toNat_zextByte]
    rfl
  have hbyte : b.toNat < 256 := b.isLt
  omega

theorem encodedBy_ldI : EncodedBy 0xF000 0xA000 (fun w => .ldI (fieldNNN w)) := fun w h => by
  rw [decode, opcode_of_mask h]
  rfl

/-- The pattern fixes `kk` as well, by which family F selects its arm. -/
theorem encodedBy_ldF : EncodedBy 0xF0FF 0xF029 (fun w => .ldF (fieldX w)) := fun w h => by
  obtain ⟨hop, hkk⟩ := fields_of_mask_F0FF h
  have hfamily : decode w = decodeFamilyF w := by
    rw [decode, hop]
    rfl
  rw [hfamily, decodeFamilyF, hkk]
  rfl

/-- Settles O31: both instructions write I only, and the addresses they write are read as numbers. -/
theorem indexLoads : Obligations.IndexLoads :=
  ⟨encodedBy_ldI, encodedBy_ldF, fun s x nnn =>
    ⟨⟨_, exec_ldI nnn s, toNat_zextAddr nnn, untouched_setI s _⟩,
     ⟨_, exec_ldF x s, toNat_glyphAddr (s.reg x), untouched_setI s _⟩⟩⟩

end Sys2Proof.Machine
end

section
/-! PROOFS. `Fx0A` against every other instruction (spec/45_timers_keys.md R276): the mode after each meaning. -/

namespace Sys2Proof.Machine

theorem exec_ldVK (x : RegNum) (s : State) : exec (.ldVK x) s = .next (s.setMode (.waitKey x)) := rfl

/-- Every instruction but `Fx0A` completes in the mode it started in. Six of them may raise a fault instead, and the
latch leaves the mode alone too. -/
theorem exec_keeps_mode {i : Instr} (s : State) (hi : ∀ x, i ≠ .ldVK x) :
    ∃ t, exec i s = .next t ∧ t.mode = s.mode := by
  cases i with
  | ldVK x => exact absurd rfl (hi x)
  | ret =>
    rcases h : s.sp with _ | j
    · exact ⟨_, execRet_empty h, rfl⟩
    · exact ⟨_, execRet_top h, rfl⟩
  | call nnn =>
    rcases h : s.sp.nextSlot with _ | j
    · exact ⟨_, execCall_full nnn h, rfl⟩
    · exact ⟨_, execCall_push nnn h, rfl⟩
  | drw x y n =>
    rcases h : oobAddress s.i.toNat n.toNat with _ | a
    · exact ⟨_, execDrw_inside x y h, rfl⟩
    · exact ⟨_, execDrw_outside h, rfl⟩
  | ldB x =>
    rcases h : oobAddress s.i.toNat 3 with _ | a
    · exact ⟨_, execLdB_inside x h, rfl⟩
    · exact ⟨_, execLdB_outside h, rfl⟩
  | ldMemV x =>
    rcases h : oobAddress s.i.toNat (x.toNat + 1) with _ | a
    · exact ⟨_, execLdMemV_inside x h, rfl⟩
    · exact ⟨_, execLdMemV_outside h, rfl⟩
  | ldVMem x =>
    rcases h : oobAddress s.i.toNat (x.toNat + 1) with _ | a
    · exact ⟨_, execLdVMem_inside x h, rfl⟩
    · exact ⟨_, execLdVMem_outside h, rfl⟩
  | _ => exact ⟨_, rfl, rfl⟩

/-- Settles O46: `Fx0A` writes the mode, and the one next state of any other instruction has the mode it started in. -/
theorem onlyKeyWaitSuspends : Obligations.OnlyKeyWaitSuspends := by
  refine ⟨fun s x => ⟨_, exec_ldVK x s, setMode_mode s _⟩, fun i s t hi ht => ?_⟩
  obtain ⟨u, hu, hmode⟩ := exec_keeps_mode s hi
  cases hu.symm.trans ht
  exact hmode

end Sys2Proof.Machine
end

section
/-! PROOFS. `Fx07`, `Fx15` and `Fx18` (spec/45_timers_keys.md R272 to R274): one write of `V[x]`, and one of each timer. -/

namespace Sys2Proof.Machine

open Sys2Proof.Spec

/-- A write of DT changes nothing else. -/
theorem untouched_setDt (s : State) (b : Byte) : Untouched { dt := true } s (s.setDt b) where
  regs _ _ := rfl
  bytes _ _ := rfl
  i _ := rfl
  pc _ := rfl
  stack _ := ⟨rfl, rfl⟩
  dt h := nomatch h
  st _ := rfl
  fb _ := rfl
  disposed := rfl
  mode _ := rfl
  fault _ := rfl
  params := rfl
  draws _ := rfl
  stepped _ := rfl

/-- A write of ST changes nothing else. -/
theorem untouched_setSt (s : State) (b : Byte) : Untouched { st := true } s (s.setSt b) where
  regs _ _ := rfl
  bytes _ _ := rfl
  i _ := rfl
  pc _ := rfl
  stack _ := ⟨rfl, rfl⟩
  dt _ := rfl
  st h := nomatch h
  fb _ := rfl
  disposed := rfl
  mode _ := rfl
  fault _ := rfl
  params := rfl
  draws _ := rfl
  stepped _ := rfl

theorem exec_ldVDt (x : RegNum) (s : State) : exec (.ldVDt x) s = .next (s.setReg x s.dt) := rfl

theorem exec_ldDtV (x : RegNum) (s : State) : exec (.ldDtV x) s = .next (s.setDt (s.reg x)) := rfl

theorem exec_ldStV (x : RegNum) (s : State) : exec (.ldStV x) s = .next (s.setSt (s.reg x)) := rfl

/-- A pattern of family F under mask `0xF0FF` leaves the decoder only the arm of family F for the pattern's `kk`. -/
theorem decode_of_patternF {w pattern : Word} (h : w &&& 0xF0FF = pattern) (hop : opcode pattern = 0xF) :
    decode w = decodeFamilyF w ∧ fieldKK w = fieldKK pattern := by
  obtain ⟨hopcode, hkk⟩ := fields_of_mask_F0FF h
  refine ⟨?_, hkk⟩
  rw [decode, hopcode, hop]
  rfl

theorem encodedBy_ldVDt : EncodedBy 0xF0FF 0xF007 (fun w => .ldVDt (fieldX w)) := fun w h => by
  obtain ⟨hfamily, hkk⟩ := decode_of_patternF h (by decide)
  rw [hfamily, decodeFamilyF, hkk]
  rfl

theorem encodedBy_ldDtV : EncodedBy 0xF0FF 0xF015 (fun w => .ldDtV (fieldX w)) := fun w h => by
  obtain ⟨hfamily, hkk⟩ := decode_of_patternF h (by decide)
  rw [hfamily, decodeFamilyF, hkk]
  rfl

theorem encodedBy_ldStV : EncodedBy 0xF0FF 0xF018 (fun w => .ldStV (fieldX w)) := fun w h => by
  obtain ⟨hfamily, hkk⟩ := decode_of_patternF h (by decide)
  rw [hfamily, decodeFamilyF, hkk]
  rfl

/-- Settles O39: each of the three is the write of one register or timer, with the frame of that write. -/
theorem timerTransfers : Obligations.TimerTransfers :=
  ⟨encodedBy_ldVDt, encodedBy_ldDtV, encodedBy_ldStV, fun s x =>
    ⟨writes_of_exec (p := (· = s.dt)) (exec_ldVDt x s) rfl,
     ⟨_, exec_ldDtV x s, setDt_dt s _, untouched_setDt s _⟩,
     ⟨_, exec_ldStV x s, setSt_st s _, untouched_setSt s _⟩⟩⟩

end Sys2Proof.Machine
end

section
/-! PROOFS. The tick event (spec/60_exceptions.md R306): what it leaves in each timer, and its frame. -/

namespace Sys2Proof.Machine

open Sys2Proof.Spec

theorem tick_of_not_disposed {s : State} (h : s.disposed = false) :
    s.tick = (s.setDt (tickTimer s.dt)).setSt (tickTimer s.st) := by
  simp [State.tick, h]

/-- The natural subtraction has the floor at zero; a byte above zero does not borrow. -/
theorem tickTimer_toNat (b : Byte) : (tickTimer b).toNat = b.toNat - 1 := by
  unfold tickTimer
  split
  · next hzero => simp [hzero]
  · next hpos => bv_omega

/-- A tick keeps whatever the writes of the two timers keep. -/
theorem tick_keeps {α : Type} (f : State → α) (s : State) (h : ∀ d b, f ((s.setDt d).setSt b) = f s) :
    f s.tick = f s := by
  cases hd : s.disposed with
  | true => rw [tick_of_disposed hd]
  | false => rw [tick_of_not_disposed hd, h]

/-- A tick changes nothing but the timers. -/
theorem untouched_tick (s : State) : Untouched { dt := true, st := true } s s.tick where
  regs z _ := tick_keeps (·.reg z) s fun _ _ => rfl
  bytes a _ := tick_keeps (·.byteAt a) s fun _ _ => rfl
  i _ := tick_keeps State.i s fun _ _ => rfl
  pc _ := tick_keeps State.pc s fun _ _ => rfl
  stack _ := ⟨tick_keeps State.sp s fun _ _ => rfl, tick_keeps State.stack s fun _ _ => rfl⟩
  dt h := nomatch h
  st h := nomatch h
  fb _ := tick_keeps State.fb s fun _ _ => rfl
  disposed := tick_keeps State.disposed s fun _ _ => rfl
  mode _ := tick_keeps State.mode s fun _ _ => rfl
  fault _ := tick_keeps State.fault s fun _ _ => rfl
  params := tick_keeps State.params s fun _ _ => rfl
  draws _ := tick_keeps State.draws s fun _ _ => rfl
  stepped _ := tick_keeps State.stepped s fun _ _ => rfl

/-- Settles O40: by whether the machine is disposed, with the floor of one decrement and the frame of a tick. -/
theorem tickDecrementsBothTimers : Obligations.TickDecrementsBothTimers := by
  refine fun s => ⟨rfl, tick_of_disposed, fun h => ?_, untouched_tick s⟩
  rw [tick_of_not_disposed h]
  exact ⟨tickTimer_toNat s.dt, tickTimer_toNat s.st⟩

end Sys2Proof.Machine
end

section
/-! PROOFS. The decoder against the encoder, the opcode map and the list of undefined encodings (spec/30_encoding.md R91
to R102). -/

namespace Sys2Proof

open Sys2Proof.Machine Sys2Proof.Spec

/-! From an instruction to its word and back. -/

/-- A SYS that is neither of the words R94 gives to CLS and RET is decoded from its own word. -/
theorem decode_wordNNN_sys {nnn : Addr12} (h : (Instr.sys nnn).wf = true) :
    decode (wordNNN 0x0#4 nnn) = .instr (.sys nnn) := by
  have hfamily : decode (wordNNN 0x0#4 nnn) = decodeFamily0 (wordNNN 0x0#4 nnn) := by simp [decode]
  simp only [Instr.wf, Bool.and_eq_true, bne_iff_ne] at h
  have hcls : wordNNN 0x0#4 nnn ≠ 0x00E0#16 := fun he =>
    h.1 ((fieldNNN_wordNNN _ nnn).symm.trans (congrArg fieldNNN he))
  have hret : wordNNN 0x0#4 nnn ≠ 0x00EE#16 := fun he =>
    h.2 ((fieldNNN_wordNNN _ nnn).symm.trans (congrArg fieldNNN he))
  rw [hfamily, decodeFamily0, if_neg hcls, if_neg hret, fieldNNN_wordNNN]

/-- An instruction is decoded from its own word: its format gives back each field, and the opcode, `n` or `kk` it fixes
selects its arm. -/
theorem decode_encode {i : Instr} (h : i.wf = true) : decode (encode i) = .instr i := by
  cases i with
  | cls => decide
  | ret => decide
  | sys nnn => exact decode_wordNNN_sys h
  | _ => simp [encode, decode, decodeFamily5, decodeFamily8, decodeFamily9, decodeFamilyE, decodeFamilyF]

theorem decodeBytes_encodeBytes (i : Instr) (rest : List Byte) :
    decodeBytes (encodeBytes i ++ rest) = .ok (decode (encode i), rest) := by
  simp [encodeBytes, decodeBytes]

/-- Settles O1: by the formats, and the two bytes of a word put together again. -/
theorem decodeEncodeAgree : Obligations.DecodeEncodeAgree := fun i h =>
  ⟨decode_encode h, fun rest => by rw [decodeBytes_encodeBytes, decode_encode h]⟩

/-! From a word to its instruction and back: the fields of each format put together give the word. -/

theorem wordNNN_fields {w : Word} {op : Nibble} (hop : opcode w = op) : wordNNN op (fieldNNN w) = w := by
  subst hop
  apply BitVec.eq_of_getLsbD_eq
  intro k hk
  simp only [wordNNN, opcode, fieldNNN, BitVec.getLsbD_append, BitVec.getLsbD_extractLsb']
  by_cases h : k < 12
  · simp [h]
  · simp [h, show k - 12 < 4 by omega, show 12 + (k - 12) = k by omega]

/-- The byte of two fields that lie side by side. -/
theorem extract_append_extract_four (w : Word) (start : Nat) :
    (w.extractLsb' (start + 4) 4 ++ w.extractLsb' start 4 : BitVec 8) = w.extractLsb' start 8 := by
  apply BitVec.eq_of_getLsbD_eq
  intro k hk
  simp only [BitVec.getLsbD_append, BitVec.getLsbD_extractLsb']
  by_cases h : k < 4
  · simp [h, hk]
  · simp [h, hk, show k - 4 < 4 by omega, show start + 4 + (k - 4) = start + k by omega]

theorem wordXKK_fields {w : Word} {op : Nibble} {kk : Byte} (hop : opcode w = op) (hkk : fieldKK w = kk) :
    wordXKK op (fieldX w) kk = w := by
  subst hop hkk
  have hhigh : (opcode w ++ fieldX w : BitVec 8) = highByte w := extract_append_extract_four w 8
  rw [wordXKK, hhigh]
  exact extract_append_extract w

theorem wordXYN_fields {w : Word} {op n : Nibble} (hop : opcode w = op) (hn : fieldN w = n) :
    wordXYN op (fieldX w) (fieldY w) n = w := by
  subst hn
  rw [wordXYN_eq]
  exact wordXKK_fields hop (extract_append_extract_four w 0).symm

/-! One family at a time: an arm of the decoder fixes the field it asks for, and the format does the rest. -/

theorem encode_of_decodeFamily0 {w : Word} {i : Instr} (hop : opcode w = 0x0#4) (h : decodeFamily0 w = .instr i) :
    i.wf = true ∧ encode i = w := by
  unfold decodeFamily0 at h
  split at h
  · next hw => cases h; exact ⟨rfl, hw.symm⟩
  split at h
  · next hw => cases h; exact ⟨rfl, hw.symm⟩
  next hcls hret =>
    cases h
    have hword : wordNNN 0x0#4 (fieldNNN w) = w := wordNNN_fields hop
    have hne : ∀ a : Addr12, wordNNN 0x0#4 a ≠ w → fieldNNN w ≠ a := fun a hne he => hne (he ▸ hword)
    simp only [Instr.wf, Bool.and_eq_true, bne_iff_ne]
    exact ⟨⟨hne 0x0E0#12 (Ne.symm hcls), hne 0x0EE#12 (Ne.symm hret)⟩, hword⟩

theorem encode_of_decodeFamily5 {w : Word} {i : Instr} (hop : opcode w = 0x5#4) (h : decodeFamily5 w = .instr i) :
    i.wf = true ∧ encode i = w := by
  unfold decodeFamily5 at h
  split at h
  · next hn => cases h; exact ⟨rfl, wordXYN_fields hop hn⟩
  · cases h

theorem encode_of_decodeFamily9 {w : Word} {i : Instr} (hop : opcode w = 0x9#4) (h : decodeFamily9 w = .instr i) :
    i.wf = true ∧ encode i = w := by
  unfold decodeFamily9 at h
  split at h
  · next hn => cases h; exact ⟨rfl, wordXYN_fields hop hn⟩
  · cases h

theorem encode_of_decodeFamily8 {w : Word} {i : Instr} (hop : opcode w = 0x8#4) (h : decodeFamily8 w = .instr i) :
    i.wf = true ∧ encode i = w := by
  unfold decodeFamily8 at h
  split at h <;> cases h
  all_goals next hn => exact ⟨rfl, wordXYN_fields hop (BitVec.eq_of_toNat_eq hn)⟩

theorem encode_of_decodeFamilyE {w : Word} {i : Instr} (hop : opcode w = 0xE#4) (h : decodeFamilyE w = .instr i) :
    i.wf = true ∧ encode i = w := by
  unfold decodeFamilyE at h
  split at h <;> cases h
  all_goals next hkk => exact ⟨rfl, wordXKK_fields hop (BitVec.eq_of_toNat_eq hkk)⟩

theorem encode_of_decodeFamilyF {w : Word} {i : Instr} (hop : opcode w = 0xF#4) (h : decodeFamilyF w = .instr i) :
    i.wf = true ∧ encode i = w := by
  unfold decodeFamilyF at h
  split at h <;> cases h
  all_goals next hkk => exact ⟨rfl, wordXKK_fields hop (BitVec.eq_of_toNat_eq hkk)⟩


/-- Every word that decodes to an instruction is the encoding of that well-formed instruction: the decoder's arms one by
one, the six families by their own lemmas. -/
theorem encode_of_decode {w : Word} {i : Instr} (h : decode w = .instr i) : i.wf = true ∧ encode i = w := by
  unfold decode at h
  split at h
  case h_1 hop => exact encode_of_decodeFamily0 (BitVec.eq_of_toNat_eq hop) h
  case h_6 hop => exact encode_of_decodeFamily5 (BitVec.eq_of_toNat_eq hop) h
  case h_9 hop => exact encode_of_decodeFamily8 (BitVec.eq_of_toNat_eq hop) h
  case h_10 hop => exact encode_of_decodeFamily9 (BitVec.eq_of_toNat_eq hop) h
  case h_15 hop => exact encode_of_decodeFamilyE (BitVec.eq_of_toNat_eq hop) h
  case h_16 =>
    have hop : (opcode w).toNat = 15 := by
      have hlt : (opcode w).toNat < 16 := (opcode w).isLt
      grind
    exact encode_of_decodeFamilyF (BitVec.eq_of_toNat_eq hop) h
  all_goals cases h
  case h_2 hop | h_3 hop | h_11 hop | h_12 hop => exact ⟨rfl, wordNNN_fields (BitVec.eq_of_toNat_eq hop)⟩
  case h_14 hop => exact ⟨rfl, wordXYN_fields (BitVec.eq_of_toNat_eq hop) rfl⟩
  all_goals next hop => exact ⟨rfl, wordXKK_fields (BitVec.eq_of_toNat_eq hop) rfl⟩


/-- Settles O2: every arm of the decoder keeps all the bits of the word. -/
theorem encodeDecodeAgree : Obligations.EncodeDecodeAgree := fun _ _ h => encode_of_decode h

/-! The undefined encodings: each family rejects exactly the values no arm names, and gives the word back. -/

theorem decodeFamily0_defined (w u : Word) : decodeFamily0 w ≠ .undefined u := by
  unfold decodeFamily0
  split
  · simp
  · split <;> simp

theorem decodeFamily5_undefined_iff {w u : Word} : decodeFamily5 w = .undefined u ↔ u = w ∧ (fieldN w).toNat ≠ 0 := by
  unfold decodeFamily5
  split
  · next hn => simp [hn]
  · next hn =>
    have hpos : (fieldN w).toNat ≠ 0 := fun h => hn (BitVec.eq_of_toNat_eq h)
    simp [hpos, eq_comm]

theorem decodeFamily9_undefined_iff {w u : Word} : decodeFamily9 w = .undefined u ↔ u = w ∧ (fieldN w).toNat ≠ 0 := by
  unfold decodeFamily9
  split
  · next hn => simp [hn]
  · next hn =>
    have hpos : (fieldN w).toNat ≠ 0 := fun h => hn (BitVec.eq_of_toNat_eq h)
    simp [hpos, eq_comm]

theorem decodeFamily8_undefined_iff {w u : Word} :
    decodeFamily8 w = .undefined u ↔ u = w ∧ (fieldN w).toNat ∈ [0x8, 0x9, 0xA, 0xB, 0xC, 0xD, 0xF] := by
  have hlt : (fieldN w).toNat < 16 := (fieldN w).isLt
  unfold decodeFamily8
  split
  case h_10 =>
    have hmem : (fieldN w).toNat ∈ [0x8, 0x9, 0xA, 0xB, 0xC, 0xD, 0xF] := by
      simp only [List.mem_cons, List.not_mem_nil, or_false]
      grind
    simp [hmem, eq_comm]
  all_goals next hn => simp [hn]

theorem decodeFamilyE_undefined_iff {w u : Word} :
    decodeFamilyE w = .undefined u ↔ u = w ∧ (fieldKK w).toNat ∉ [0x9E, 0xA1] := by
  unfold decodeFamilyE
  split <;> simp_all [eq_comm]

theorem decodeFamilyF_undefined_iff {w u : Word} :
    decodeFamilyF w = .undefined u ↔
      u = w ∧ (fieldKK w).toNat ∉ [0x07, 0x0A, 0x15, 0x18, 0x1E, 0x29, 0x33, 0x55, 0x65] := by
  unfold decodeFamilyF
  split <;> simp_all [eq_comm]

/-- The decoder answers `Undefined(w)` exactly for the words of R99. -/
theorem decode_undefined_iff {w u : Word} : decode w = .undefined u ↔ u = w ∧ UndefinedWord w := by
  unfold decode UndefinedWord
  split
  case h_16 =>
    have hop : (opcode w).toNat = 15 := by
      have hlt : (opcode w).toNat < 16 := (opcode w).isLt
      grind
    simp [hop, decodeFamilyF_undefined_iff]
  all_goals next hop =>
    simp [hop, decodeFamily0_defined, decodeFamily5_undefined_iff, decodeFamily8_undefined_iff,
      decodeFamily9_undefined_iff, decodeFamilyE_undefined_iff]

/-- Settles O4: the undefined words of the decoder are those of R99, and `execUndefined` answers the state it got. -/
theorem undefinedEncodingsAreExactlyTheListed : Obligations.UndefinedEncodingsAreExactlyTheListed :=
  ⟨fun w => by simp [decode_undefined_iff], fun _ _ => rfl⟩

/-- Settles O6: each of the twenty words is decoded by evaluation. -/
theorem sampleWordsDecode : Obligations.SampleWordsDecode := by
  unfold Obligations.SampleWordsDecode
  decide

end Sys2Proof
end

section
/-! PROOFS. Every row of the opcode map selects its own arm of the decoder (spec/30_encoding.md R101). -/

namespace Sys2Proof.Machine

open Sys2Proof.Spec Sys2Proof.Laws

/-! The patterns of mask `0xF000`. -/

theorem encodedBy_call : EncodedBy 0xF000 0x2000 (fun w => .call (fieldNNN w)) := fun w h => by
  rw [decode, opcode_of_mask h]
  rfl

theorem encodedBy_rnd : EncodedBy 0xF000 0xC000 (fun w => .rnd (fieldX w) (fieldKK w)) := fun w h => by
  rw [decode, opcode_of_mask h]
  rfl

theorem encodedBy_drw : EncodedBy 0xF000 0xD000 (fun w => .drw (fieldX w) (fieldY w) (fieldN w)) := fun w h => by
  rw [decode, opcode_of_mask h]
  rfl

/-- Family 0 holds SYS but for the two words R94 takes out (D13). -/
theorem decode_sys {w : Word} (hop : opcode w = 0x0#4) (hcls : w ≠ 0x00E0#16) (hret : w ≠ 0x00EE#16) :
    decode w = .instr (.sys (fieldNNN w)) := by
  have hfamily : decode w = decodeFamily0 w := by
    rw [decode, hop]
    rfl
  rw [hfamily, decodeFamily0, if_neg hcls, if_neg hret]

/-! The patterns of mask `0xF00F` in family 8: `n` is fixed as well, by which the family selects its arm. -/

theorem decode_of_pattern8 {w pattern : Word} (h : w &&& 0xF00F = pattern) (hop : opcode pattern = 0x8) :
    decode w = decodeFamily8 w ∧ fieldN w = fieldN pattern := by
  obtain ⟨hopcode, hn⟩ := fields_of_mask_F00F h
  refine ⟨?_, hn⟩
  rw [decode, hopcode, hop]
  rfl

theorem encodedBy_ldReg : EncodedBy 0xF00F 0x8000 (fun w => .ldReg (fieldX w) (fieldY w)) := fun w h => by
  obtain ⟨hfamily, hn⟩ := decode_of_pattern8 h (by decide)
  rw [hfamily, decodeFamily8, hn]
  rfl

theorem encodedBy_orReg : EncodedBy 0xF00F 0x8001 (fun w => .orReg (fieldX w) (fieldY w)) := fun w h => by
  obtain ⟨hfamily, hn⟩ := decode_of_pattern8 h (by decide)
  rw [hfamily, decodeFamily8, hn]
  rfl

theorem encodedBy_andReg : EncodedBy 0xF00F 0x8002 (fun w => .andReg (fieldX w) (fieldY w)) := fun w h => by
  obtain ⟨hfamily, hn⟩ := decode_of_pattern8 h (by decide)
  rw [hfamily, decodeFamily8, hn]
  rfl

theorem encodedBy_xorReg : EncodedBy 0xF00F 0x8003 (fun w => .xorReg (fieldX w) (fieldY w)) := fun w h => by
  obtain ⟨hfamily, hn⟩ := decode_of_pattern8 h (by decide)
  rw [hfamily, decodeFamily8, hn]
  rfl

theorem encodedBy_addReg : EncodedBy 0xF00F 0x8004 (fun w => .addReg (fieldX w) (fieldY w)) := fun w h => by
  obtain ⟨hfamily, hn⟩ := decode_of_pattern8 h (by decide)
  rw [hfamily, decodeFamily8, hn]
  rfl

theorem encodedBy_sub : EncodedBy 0xF00F 0x8005 (fun w => .sub (fieldX w) (fieldY w)) := fun w h => by
  obtain ⟨hfamily, hn⟩ := decode_of_pattern8 h (by decide)
  rw [hfamily, decodeFamily8, hn]
  rfl

theorem encodedBy_shr : EncodedBy 0xF00F 0x8006 (fun w => .shr (fieldX w) (fieldY w)) := fun w h => by
  obtain ⟨hfamily, hn⟩ := decode_of_pattern8 h (by decide)
  rw [hfamily, decodeFamily8, hn]
  rfl

theorem encodedBy_subn : EncodedBy 0xF00F 0x8007 (fun w => .subn (fieldX w) (fieldY w)) := fun w h => by
  obtain ⟨hfamily, hn⟩ := decode_of_pattern8 h (by decide)
  rw [hfamily, decodeFamily8, hn]
  rfl

theorem encodedBy_shl : EncodedBy 0xF00F 0x800E (fun w => .shl (fieldX w) (fieldY w)) := fun w h => by
  obtain ⟨hfamily, hn⟩ := decode_of_pattern8 h (by decide)
  rw [hfamily, decodeFamily8, hn]
  rfl

/-! The patterns of mask `0xF0FF`: families E and F select their arm by `kk`. -/

theorem decode_of_patternE {w pattern : Word} (h : w &&& 0xF0FF = pattern) (hop : opcode pattern = 0xE) :
    decode w = decodeFamilyE w ∧ fieldKK w = fieldKK pattern := by
  obtain ⟨hopcode, hkk⟩ := fields_of_mask_F0FF h
  refine ⟨?_, hkk⟩
  rw [decode, hopcode, hop]
  rfl

theorem encodedBy_skp : EncodedBy 0xF0FF 0xE09E (fun w => .skp (fieldX w)) := fun w h => by
  obtain ⟨hfamily, hkk⟩ := decode_of_patternE h (by decide)
  rw [hfamily, decodeFamilyE, hkk]
  rfl

theorem encodedBy_sknp : EncodedBy 0xF0FF 0xE0A1 (fun w => .sknp (fieldX w)) := fun w h => by
  obtain ⟨hfamily, hkk⟩ := decode_of_patternE h (by decide)
  rw [hfamily, decodeFamilyE, hkk]
  rfl

theorem encodedBy_ldVK : EncodedBy 0xF0FF 0xF00A (fun w => .ldVK (fieldX w)) := fun w h => by
  obtain ⟨hfamily, hkk⟩ := decode_of_patternF h (by decide)
  rw [hfamily, decodeFamilyF, hkk]
  rfl

theorem encodedBy_addI : EncodedBy 0xF0FF 0xF01E (fun w => .addI (fieldX w)) := fun w h => by
  obtain ⟨hfamily, hkk⟩ := decode_of_patternF h (by decide)
  rw [hfamily, decodeFamilyF, hkk]
  rfl

theorem encodedBy_ldB : EncodedBy 0xF0FF 0xF033 (fun w => .ldB (fieldX w)) := fun w h => by
  obtain ⟨hfamily, hkk⟩ := decode_of_patternF h (by decide)
  rw [hfamily, decodeFamilyF, hkk]
  rfl

theorem encodedBy_ldMemV : EncodedBy 0xF0FF 0xF055 (fun w => .ldMemV (fieldX w)) := fun w h => by
  obtain ⟨hfamily, hkk⟩ := decode_of_patternF h (by decide)
  rw [hfamily, decodeFamilyF, hkk]
  rfl

theorem encodedBy_ldVMem : EncodedBy 0xF0FF 0xF065 (fun w => .ldVMem (fieldX w)) := fun w h => by
  obtain ⟨hfamily, hkk⟩ := decode_of_patternF h (by decide)
  rw [hfamily, decodeFamilyF, hkk]
  rfl

/-! The opcode map. -/

/-- Every word of the row decodes to an instruction of the row's name, but for the two words R94 gives to CLS and
RET. -/
def RowDecodes (r : OpcodeRow) : Prop :=
  ∀ w : Word, w &&& r.mask = r.pattern →
    ∃ i, decode w = .instr i ∧ (i.mnemonic = r.mnemonic ∨ w = 0x00E0#16 ∨ w = 0x00EE#16)

theorem RowDecodes.of_encodedBy {mask pattern : Word} {f : Word → Instr} {name : String}
    (h : EncodedBy mask pattern f) (hname : ∀ w, (f w).mnemonic = name) : RowDecodes ⟨name, pattern, mask⟩ :=
  fun w hw => ⟨f w, h w hw, .inl (hname w)⟩

/-- A row of one word. -/
theorem RowDecodes.of_word {word : Word} {i : Instr} {name : String} (h : decode word = .instr i)
    (hname : i.mnemonic = name) : RowDecodes ⟨name, word, BitVec.allOnes 16⟩ := fun w hw => by
  rw [BitVec.and_allOnes] at hw
  exact ⟨i, hw ▸ h, .inl hname⟩

theorem RowDecodes.sys : RowDecodes ⟨"SYS", 0x0000, 0xF000⟩ := fun w hw => by
  by_cases hcls : w = 0x00E0#16
  · exact ⟨.cls, hcls ▸ by decide, .inr (.inl hcls)⟩
  by_cases hret : w = 0x00EE#16
  · exact ⟨.ret, hret ▸ by decide, .inr (.inr hret)⟩
  exact ⟨_, decode_sys (opcode_of_mask hw) hcls hret, .inl rfl⟩

/-- The rows in the order of the map. -/
theorem opcodeMap_decodes : ∀ r ∈ opcodeMap, RowDecodes r := by
  simp only [opcodeMap, List.forall_mem_append, List.forall_mem_cons]
  have hnil : ∀ r ∈ ([] : List OpcodeRow), RowDecodes r := fun _ h => nomatch h
  have of := @RowDecodes.of_encodedBy
  refine ⟨⟨⟨⟨.of_word (i := .cls) (by decide) rfl, .of_word (i := .ret) (by decide) rfl, hnil⟩, ?_⟩, ?_⟩, ?_⟩
  · exact ⟨of encodedBy_skp fun _ => rfl, of encodedBy_sknp fun _ => rfl, of encodedBy_ldVDt fun _ => rfl,
      of encodedBy_ldDtV fun _ => rfl, of encodedBy_ldStV fun _ => rfl, of encodedBy_ldVK fun _ => rfl,
      of encodedBy_addI fun _ => rfl, of encodedBy_ldF fun _ => rfl, of encodedBy_ldB fun _ => rfl,
      of encodedBy_ldMemV fun _ => rfl, of encodedBy_ldVMem fun _ => rfl, hnil⟩
  · exact ⟨of encodedBy_seReg fun _ => rfl, of encodedBy_sneReg fun _ => rfl, of encodedBy_ldReg fun _ => rfl,
      of encodedBy_orReg fun _ => rfl, of encodedBy_andReg fun _ => rfl, of encodedBy_xorReg fun _ => rfl,
      of encodedBy_addReg fun _ => rfl, of encodedBy_sub fun _ => rfl, of encodedBy_shr fun _ => rfl,
      of encodedBy_subn fun _ => rfl, of encodedBy_shl fun _ => rfl, hnil⟩
  · exact ⟨.sys, of encodedBy_jp fun _ => rfl, of encodedBy_call fun _ => rfl, of encodedBy_seImm fun _ => rfl,
      of encodedBy_sneImm fun _ => rfl, of encodedBy_ldImm fun _ => rfl, of encodedBy_addImm fun _ => rfl,
      of encodedBy_ldI fun _ => rfl, of encodedBy_jpV0 fun _ => rfl, of encodedBy_rnd fun _ => rfl,
      of encodedBy_drw fun _ => rfl, hnil⟩

/-- The row found is a row of the map, the word belongs to it, and so it decodes. -/
theorem opcodeRow_decodes {w : Word} {r : OpcodeRow} (h : opcodeRow w = some r) :
    ∃ i, decode w = .instr i ∧ (i.mnemonic = r.mnemonic ∨ w = 0x00E0#16 ∨ w = 0x00EE#16) :=
  opcodeMap_decodes r (List.mem_of_find?_eq_some h) w (by simpa using List.find?_some h)

/-- Every instruction's word lies in a row of its name. -/
theorem opcodeRow_statement (i : Instr) : OpcodeRow.Statement i :=
  match i with
  | .cls => OpcodeRow.cls
  | .ret => OpcodeRow.ret
  | .sys nnn => OpcodeRow.sys nnn
  | .jp nnn => OpcodeRow.jp nnn
  | .call nnn => OpcodeRow.call nnn
  | .seImm x kk => OpcodeRow.seImm x kk
  | .sneImm x kk => OpcodeRow.sneImm x kk
  | .seReg x y => OpcodeRow.seReg x y
  | .sneReg x y => OpcodeRow.sneReg x y
  | .ldImm x kk => OpcodeRow.ldImm x kk
  | .addImm x kk => OpcodeRow.addImm x kk
  | .ldReg x y => OpcodeRow.ldReg x y
  | .orReg x y => OpcodeRow.orReg x y
  | .andReg x y => OpcodeRow.andReg x y
  | .xorReg x y => OpcodeRow.xorReg x y
  | .addReg x y => OpcodeRow.addReg x y
  | .sub x y => OpcodeRow.sub x y
  | .shr x y => OpcodeRow.shr x y
  | .subn x y => OpcodeRow.subn x y
  | .shl x y => OpcodeRow.shl x y
  | .ldI nnn => OpcodeRow.ldI nnn
  | .jpV0 nnn => OpcodeRow.jpV0 nnn
  | .rnd x kk => OpcodeRow.rnd x kk
  | .drw x y n => OpcodeRow.drw x y n
  | .skp x => OpcodeRow.skp x
  | .sknp x => OpcodeRow.sknp x
  | .ldVDt x => OpcodeRow.ldVDt x
  | .ldDtV x => OpcodeRow.ldDtV x
  | .ldStV x => OpcodeRow.ldStV x
  | .ldVK x => OpcodeRow.ldVK x
  | .addI x => OpcodeRow.addI x
  | .ldF x => OpcodeRow.ldF x
  | .ldB x => OpcodeRow.ldB x
  | .ldMemV x => OpcodeRow.ldMemV x
  | .ldVMem x => OpcodeRow.ldVMem x

theorem opcodeRow_isSome_of_decode {w : Word} {i : Instr} (h : decode w = .instr i) : ∃ r, opcodeRow w = some r := by
  obtain ⟨-, rfl⟩ := encode_of_decode h
  obtain ⟨r, hr, -, hmask⟩ := opcodeRow_statement i
  exact Option.isSome_iff_exists.mp (List.find?_isSome.mpr ⟨r, hr, by simpa using hmask⟩)

theorem opcodeRow_of_decode {w : Word} {i : Instr} (h : decode w = .instr i) :
    (opcodeRow w).map (·.mnemonic) = some i.mnemonic := by
  obtain ⟨r, hr⟩ := opcodeRow_isSome_of_decode h
  obtain ⟨j, hj, hname | rfl | rfl⟩ := opcodeRow_decodes hr
  · cases h.symm.trans hj
    rw [hr, hname]
    rfl
  · cases h.symm.trans (show decode 0x00E0#16 = .instr .cls by decide)
    decide
  · cases h.symm.trans (show decode 0x00EE#16 = .instr .ret by decide)
    decide

/-- Settles O3: the first row found decodes to an instruction of its name, and a word without an instruction is in no
row. -/
theorem decoderFollowsOpcodeMap : Obligations.DecoderFollowsOpcodeMap := by
  refine ⟨fun w i h => opcodeRow_of_decode h, fun w u h => ⟨(decode_undefined_iff.mp h).1, ?_⟩⟩
  rw [Option.eq_none_iff_forall_ne_some]
  intro r hr
  obtain ⟨i, hi, -⟩ := opcodeRow_decodes hr
  cases h.symm.trans hi

end Sys2Proof.Machine
end

section
/-! PROOFS. The algebra of frames: a frame may be widened, two steps of one frame are one step of it, and every named
update has the frame of what it writes. -/

namespace Sys2Proof.Spec

open Sys2Proof.Machine

/-- Whatever the footprint `p` allows, `q` allows too. -/
structure Footprint.Within (p q : Footprint) : Prop where
  regs    : p.regs ⊆ q.regs := by simp
  bytes   : p.bytes ⊆ q.bytes := by simp
  i       : q.i = false → p.i = false := by simp
  pc      : q.pc = false → p.pc = false := by simp
  stack   : q.stack = false → p.stack = false := by simp
  dt      : q.dt = false → p.dt = false := by simp
  st      : q.st = false → p.st = false := by simp
  fb      : q.fb = false → p.fb = false := by simp
  mode    : q.mode = false → p.mode = false := by simp
  fault   : q.fault = false → p.fault = false := by simp
  draws   : q.draws = false → p.draws = false := by simp
  stepped : q.stepped = false → p.stepped = false := by simp

theorem Untouched.mono {p q : Footprint} {s t : State} (h : Untouched p s t) (hpq : p.Within q) : Untouched q s t where
  regs z hz := h.regs z fun hp => hz (hpq.regs hp)
  bytes a ha := h.bytes a fun hp => ha (hpq.bytes hp)
  i hq := h.i (hpq.i hq)
  pc hq := h.pc (hpq.pc hq)
  stack hq := h.stack (hpq.stack hq)
  dt hq := h.dt (hpq.dt hq)
  st hq := h.st (hpq.st hq)
  fb hq := h.fb (hpq.fb hq)
  disposed := h.disposed
  mode hq := h.mode (hpq.mode hq)
  fault hq := h.fault (hpq.fault hq)
  params := h.params
  draws hq := h.draws (hpq.draws hq)
  stepped hq := h.stepped (hpq.stepped hq)

theorem Untouched.trans {p : Footprint} {s t u : State} (h : Untouched p s t) (k : Untouched p t u) :
    Untouched p s u where
  regs z hz := (k.regs z hz).trans (h.regs z hz)
  bytes a ha := (k.bytes a ha).trans (h.bytes a ha)
  i hp := (k.i hp).trans (h.i hp)
  pc hp := (k.pc hp).trans (h.pc hp)
  stack hp := ⟨(k.stack hp).1.trans (h.stack hp).1, (k.stack hp).2.trans (h.stack hp).2⟩
  dt hp := (k.dt hp).trans (h.dt hp)
  st hp := (k.st hp).trans (h.st hp)
  fb hp := (k.fb hp).trans (h.fb hp)
  disposed := k.disposed.trans h.disposed
  mode hp := (k.mode hp).trans (h.mode hp)
  fault hp := (k.fault hp).trans (h.fault hp)
  params := k.params.trans h.params
  draws hp := (k.draws hp).trans (h.draws hp)
  stepped hp := (k.stepped hp).trans (h.stepped hp)

/-- `Untouched` with every field proved by the laws of the update (Laws/State) unless it is given, so that an update's
frame states only what those laws do not say. -/
structure UpdateFrame (p : Footprint) (s t : State) : Prop where
  regs     : ∀ z, z ∉ p.regs → t.reg z = s.reg z := by simp
  bytes    : ∀ a, a ∉ p.bytes → t.byteAt a = s.byteAt a := by simp
  i        : p.i = false → t.i = s.i := by simp
  pc       : p.pc = false → t.pc = s.pc := by simp
  stack    : p.stack = false → t.sp = s.sp ∧ t.stack = s.stack := by simp
  dt       : p.dt = false → t.dt = s.dt := by simp
  st       : p.st = false → t.st = s.st := by simp
  fb       : p.fb = false → t.fb = s.fb := by simp
  disposed : t.disposed = s.disposed := by simp
  mode     : p.mode = false → t.mode = s.mode := by simp
  fault    : p.fault = false → t.fault = s.fault := by simp
  params   : t.params = s.params := by simp
  draws    : p.draws = false → t.draws = s.draws := by simp
  stepped  : p.stepped = false → t.stepped = s.stepped := by simp

theorem UpdateFrame.untouched {p : Footprint} {s t : State} (h : UpdateFrame p s t) : Untouched p s t where
  regs := h.regs
  bytes := h.bytes
  i := h.i
  pc := h.pc
  stack := h.stack
  dt := h.dt
  st := h.st
  fb := h.fb
  disposed := h.disposed
  mode := h.mode
  fault := h.fault
  params := h.params
  draws := h.draws
  stepped := h.stepped

theorem Untouched.refl (p : Footprint) (s : State) : Untouched p s s := UpdateFrame.untouched {}

end Sys2Proof.Spec

namespace Sys2Proof.Machine

open Sys2Proof.Spec

theorem untouched_setMode (s : State) (m : Mode) : Untouched { mode := true } s (s.setMode m) :=
  UpdateFrame.untouched {}

theorem untouched_latch (s : State) (f : StepFault) : Untouched { fault := true } s (s.latch f) :=
  UpdateFrame.untouched {}

theorem untouched_setStepped (s : State) : Untouched { stepped := true } s s.setStepped :=
  UpdateFrame.untouched {}

theorem untouched_countDraw (s : State) : Untouched { draws := true } s s.countDraw :=
  UpdateFrame.untouched {}

theorem untouched_setSp (s : State) (p : StackPtr) : Untouched { stack := true } s (s.setSp p) :=
  UpdateFrame.untouched {}

theorem untouched_setStack (s : State) (k : Vector Word 16) : Untouched { stack := true } s (s.setStack k) :=
  UpdateFrame.untouched {}

theorem untouched_push (s : State) (j : Fin 16) (a : Word) : Untouched { stack := true } s (s.push j a) :=
  (untouched_setSp s (.top j)).trans (untouched_setStack _ _)

theorem untouched_setRegFlag (s : State) (x : RegNum) (r : Byte × Bool) :
    Untouched { regs := [x, regF] } s (s.setRegFlag x r) :=
  ((untouched_setReg s x r.1).mono {}).trans ((untouched_setReg _ regF (flagByte r.2)).mono {})

theorem mem_addresses {a n q : Nat} : q ∈ addresses a n ↔ a ≤ q ∧ q - a < n := by
  simp only [addresses, List.mem_map, List.mem_range]
  constructor
  · rintro ⟨k, hk, rfl⟩
    omega
  · rintro ⟨ha, hq⟩
    exact ⟨q - a, hq, by omega⟩

theorem untouched_writeBytes (s : State) (a : Nat) (l : List Byte) :
    Untouched { bytes := addresses a l.length } s (s.writeBytes a l) :=
  UpdateFrame.untouched { bytes := fun q hq => by rw [byteAt_writeBytes, dif_neg (mt mem_addresses.mpr hq)] }

theorem mem_regsTo {x z : RegNum} : z ∈ regsTo x ↔ z.toNat ≤ x.toNat := by
  simp only [regsTo, List.mem_map, List.mem_range]
  constructor
  · rintro ⟨k, hk, rfl⟩
    rw [BitVec.toNat_ofNat]
    exact (Nat.mod_le k _).trans (Nat.le_of_lt_succ hk)
  · intro h
    exact ⟨z.toNat, by omega, by simp⟩

theorem untouched_loadRegs (s : State) (x : RegNum) (a : Nat) :
    Untouched { regs := regsTo x } s (s.loadRegs x a) :=
  UpdateFrame.untouched { regs := fun z hz => by rw [reg_loadRegs, if_neg (mt mem_regsTo.mpr hz)] }

theorem untouched_tickMany (s : State) (n : Nat) : Untouched { dt := true, st := true } s (s.tickMany n) := by
  unfold State.tickMany
  split
  · exact .refl _ s
  · exact ((untouched_setDt s _).mono {}).trans ((untouched_setSt _ _).mono {})

theorem untouched_passTicks (s : State) : Untouched { dt := true, st := true, draws := true } s s.passTicks :=
  ((untouched_tickMany s _).mono {}).trans ((untouched_countDraw _).mono {})

end Sys2Proof.Machine
end

section
/-! PROOFS. Family 8 and `Cxkk` (spec/43_alu.md R200, R203 to R214): writes of `V[x]`, and of `V[x]` and the flag. -/

namespace Sys2Proof.Machine

open Sys2Proof.Spec

/-! Moves and logic. -/

theorem exec_ldReg (x y : RegNum) (s : State) : exec (.ldReg x y) s = .next (s.setReg x (s.reg y)) := rfl

theorem exec_orReg (x y : RegNum) (s : State) : exec (.orReg x y) s = .next (s.setReg x (s.reg x ||| s.reg y)) := rfl

theorem exec_andReg (x y : RegNum) (s : State) : exec (.andReg x y) s = .next (s.setReg x (s.reg x &&& s.reg y)) := rfl

theorem exec_xorReg (x y : RegNum) (s : State) : exec (.xorReg x y) s = .next (s.setReg x (s.reg x ^^^ s.reg y)) := rfl

/-- Settles O14: each of the four is the write of `V[x]`, with the bits of the value written. -/
theorem registerMoveAndLogic : Obligations.RegisterMoveAndLogic :=
  ⟨encodedBy_ldReg, encodedBy_orReg, encodedBy_andReg, encodedBy_xorReg, fun s x y =>
    ⟨writes_of_exec (p := (· = s.reg y)) (exec_ldReg x y s) rfl,
     writes_of_exec (p := fun b => ∀ k, b.getLsbD k = ((s.reg x).getLsbD k || (s.reg y).getLsbD k))
       (exec_orReg x y s) fun _ => BitVec.getLsbD_or,
     writes_of_exec (p := fun b => ∀ k, b.getLsbD k = ((s.reg x).getLsbD k && (s.reg y).getLsbD k))
       (exec_andReg x y s) fun _ => BitVec.getLsbD_and,
     writes_of_exec (p := fun b => ∀ k, b.getLsbD k = ((s.reg x).getLsbD k ^^ (s.reg y).getLsbD k))
       (exec_xorReg x y s) fun _ => BitVec.getLsbD_xor⟩⟩

/-! A result and its flag. -/

theorem toNat_flagByte (f : Bool) : (flagByte f).toNat = f.toNat := by cases f <;> rfl

theorem toNat_flagByte_decide (p : Prop) [Decidable p] : (flagByte (decide p)).toNat = if p then 1 else 0 := by
  by_cases h : p <;> simp [h, flagByte]

/-- An instruction that writes a result and its flag completes, leaves in `V[x]`, unless `x` is F, what is known of the
result, in VF the flag, and changes nothing else. -/
theorem writes_flag_of_exec {i : Instr} {s : State} {x : RegNum} {r : Byte × Bool} {p : Byte → Prop} {n : Nat}
    (hexec : exec i s = .next (s.setRegFlag x r)) (hresult : p r.1) (hflag : (flagByte r.2).toNat = n) :
    ∃ t, exec i s = .next t ∧ (x ≠ regF → p (t.reg x)) ∧ (t.reg regF).toNat = n ∧
      Untouched { regs := [x, regF] } s t := by
  refine ⟨_, hexec, fun hx => ?_, ?_, untouched_setRegFlag s x r⟩
  · rwa [reg_setRegFlag, if_neg hx, if_pos rfl]
  · rwa [reg_setRegFlag, if_pos rfl]

theorem exec_addReg (x y : RegNum) (s : State) :
    exec (.addReg x y) s = .next (s.setRegFlag x (addCarry (s.reg x) (s.reg y))) := rfl

theorem exec_sub (x y : RegNum) (s : State) :
    exec (.sub x y) s = .next (s.setRegFlag x (subNoBorrow (s.reg x) (s.reg y))) := rfl

theorem exec_subn (x y : RegNum) (s : State) :
    exec (.subn x y) s = .next (s.setRegFlag x (subNoBorrow (s.reg y) (s.reg x))) := rfl

theorem toNat_addCarry (a b : Byte) : (addCarry a b).1.toNat = (a.toNat + b.toNat) % 256 :=
  BitVec.toNat_ofNat _ _

/-- The difference mod 2^8, as a number: one borrow makes it non-negative. -/
theorem toNat_subNoBorrow (a b : Byte) : ((subNoBorrow a b).1.toNat : Int) = ((a.toNat : Int) - b.toNat) % 256 := by
  have hdiff : (subNoBorrow a b).1.toNat = (256 - b.toNat + a.toNat) % 256 := BitVec.toNat_sub a b
  have hb : b.toNat < 256 := b.isLt
  omega

/-- Settles O15: the result and the flag of the three flag computations, as numbers. -/
theorem addAndSubtractWithFlag : Obligations.AddAndSubtractWithFlag :=
  ⟨encodedBy_addReg, encodedBy_sub, encodedBy_subn, fun s x y =>
    ⟨writes_flag_of_exec (p := fun b => b.toNat = ((s.reg x).toNat + (s.reg y).toNat) % 256) (exec_addReg x y s)
       (toNat_addCarry _ _) (toNat_flagByte_decide _),
     writes_flag_of_exec (p := fun b => (b.toNat : Int) = (((s.reg x).toNat : Int) - (s.reg y).toNat) % 256)
       (exec_sub x y s) (toNat_subNoBorrow _ _) (toNat_flagByte_decide _),
     writes_flag_of_exec (p := fun b => (b.toNat : Int) = (((s.reg y).toNat : Int) - (s.reg x).toNat) % 256)
       (exec_subn x y s) (toNat_subNoBorrow _ _) (toNat_flagByte_decide _)⟩⟩

/-! The shifts. -/

/-- The register the model shifts, `State.shiftOperand`, is the one R7 names. -/
theorem exec_shr (x y : RegNum) (s : State) :
    exec (.shr x y) s = .next (s.setRegFlag x (shiftRight (shifted s x y))) := rfl

theorem exec_shl (x y : RegNum) (s : State) :
    exec (.shl x y) s = .next (s.setRegFlag x (shiftLeft (shifted s x y))) := rfl

/-- One bit of a byte as a flag. -/
theorem toNat_flagByte_getLsbD (b : Byte) (k : Nat) : (flagByte (b.getLsbD k)).toNat = b.toNat / 2 ^ k % 2 := by
  rw [toNat_flagByte]
  exact Nat.toNat_testBit b.toNat k

theorem toNat_shiftRight (b : Byte) : (shiftRight b).1.toNat = b.toNat / 2 :=
  (BitVec.toNat_ushiftRight b 1).trans (Nat.shiftRight_eq_div_pow b.toNat 1)

theorem toNat_shiftLeft (b : Byte) : (shiftLeft b).1.toNat = b.toNat * 2 % 256 := by
  rw [shiftLeft, BitVec.toNat_shiftLeft, Nat.shiftLeft_eq]

theorem flag_shiftRight (b : Byte) : (flagByte (shiftRight b).2).toNat = b.toNat % 2 := by
  rw [shiftRight, toNat_flagByte_getLsbD, Nat.pow_zero, Nat.div_one]

/-- Bit 7 is the topmost one, so its remainder is the quotient itself. -/
theorem flag_shiftLeft (b : Byte) : (flagByte (shiftLeft b).2).toNat = b.toNat / 128 := by
  have hbit : (flagByte (shiftLeft b).2).toNat = b.toNat / 128 % 2 := toNat_flagByte_getLsbD b 7
  have hbyte : b.toNat < 256 := b.isLt
  omega

/-- Settles O16: the result and the bit shifted out, as numbers, of whichever register is shifted. -/
theorem shiftsWithFlag : Obligations.ShiftsWithFlag :=
  ⟨encodedBy_shr, encodedBy_shl, fun s x y =>
    ⟨writes_flag_of_exec (p := fun b => b.toNat = (shifted s x y).toNat / 2) (exec_shr x y s)
       (toNat_shiftRight _) (flag_shiftRight _),
     writes_flag_of_exec (p := fun b => b.toNat = (shifted s x y).toNat * 2 % 256) (exec_shl x y s)
       (toNat_shiftLeft _) (flag_shiftLeft _)⟩⟩

/-! The random byte. -/

theorem exec_rnd (x : RegNum) (kk : Byte) (s : State) :
    exec (.rnd x kk) s = .next (s.countDraw.setReg x (Config.randByte s.draws &&& kk)) := rfl

/-- Settles O17: the byte written is the drawn one under the mask `kk`, whatever the draw gives. -/
theorem randomByteIsMasked : Obligations.RandomByteIsMasked := by
  refine ⟨encodedBy_rnd, fun s x kk => ⟨_, exec_rnd x kk s, ?_⟩⟩
  rw [reg_setReg_same]
  refine ⟨fun k => BitVec.getLsbD_and, ?_, rfl, ?_⟩
  · rw [BitVec.and_assoc, BitVec.and_not_self]
    exact BitVec.and_zero
  · exact ((untouched_countDraw s).mono {}).trans ((untouched_setReg _ x _).mono {})

end Sys2Proof.Machine
end

section
/-! PROOFS. `2nnn` and `00EE` (spec/42_control_flow.md R170, R172): SP as an integer, one push and one pop. -/

namespace Sys2Proof.Machine

open Sys2Proof.Spec

/-! SP as an integer. -/

@[simp] theorem toInt_empty : StackPtr.empty.toInt = -1 := rfl

@[simp] theorem toInt_top (j : Fin 16) : (StackPtr.top j).toInt = j.val := rfl

theorem toInt_range (p : StackPtr) : -1 ≤ p.toInt ∧ p.toInt ≤ 15 := by
  cases p with
  | empty => simp
  | top j => simp; omega

theorem toInt_injective {p q : StackPtr} (h : p.toInt = q.toInt) : p = q := by
  cases p with
  | empty =>
    cases q with
    | empty => rfl
    | top k => simp at h
  | top j =>
    cases q with
    | empty => simp at h
    | top k => rw [Fin.ext (Int.ofNat_inj.mp h)]

theorem nextSlot_eq_some_iff {p : StackPtr} {j : Fin 16} : p.nextSlot = some j ↔ (j.val : Int) = p.toInt + 1 := by
  cases p with
  | empty => simp [StackPtr.nextSlot, eq_comm]
  | top k => simp [StackPtr.nextSlot, Fin.ext_iff]; omega

theorem nextSlot_eq_none_iff {p : StackPtr} : p.nextSlot = none ↔ p.toInt = 15 := by
  cases p with
  | empty => simp [StackPtr.nextSlot]
  | top k => simp [StackPtr.nextSlot]; omega

theorem toInt_below (j : Fin 16) : (StackPtr.below j).toInt = j.val - 1 := by
  unfold StackPtr.below
  split
  · next h => simp [h]
  · next h =>
    have hpos : 1 ≤ j := Fin.one_le_of_ne_zero h
    rw [toInt_top, Fin.sub_val_of_le hpos]
    omega

/-- The pop of the slot a push went to gives back SP. -/
theorem below_of_nextSlot {p : StackPtr} {j : Fin 16} (h : p.nextSlot = some j) : StackPtr.below j = p := by
  apply toInt_injective
  rw [toInt_below, nextSlot_eq_some_iff.mp h]
  omega

/-! The two instructions. -/

theorem stack_push (s : State) (j k : Fin 16) (a : Word) : (s.push j a).stack[k] = if k = j then a else s.stack[k] := by
  simp [State.push, Vector.getElem_set, Fin.ext_iff, eq_comm]

theorem exists_nextSlot {p : StackPtr} (h : p.toInt < 15) : ∃ j, p.nextSlot = some j :=
  Option.ne_none_iff_exists'.mp fun hnone => by
    have hfull := nextSlot_eq_none_iff.mp hnone
    omega

/-- Settles O20: by whether SP has a next slot; the push is the write of that slot and of SP. -/
theorem callPushesOrOverflows : Obligations.CallPushesOrOverflows := by
  refine ⟨encodedBy_call, fun s nnn => ⟨toInt_range s.sp, fun hroom => ?_, fun hfull => ?_⟩⟩
  · obtain ⟨j, hj⟩ := exists_nextSlot hroom
    have hslot : (j.val : Int) = s.sp.toInt + 1 := nextSlot_eq_some_iff.mp hj
    refine ⟨_, execCall_push nnn hj, hslot, fun k => ?_, toNat_zextAddr nnn, ?_⟩
    · rw [← hslot, setPc_stack, stack_push]
      simp [Fin.ext_iff]
    · exact ((untouched_push s j s.pc).mono {}).trans ((untouched_setPc _ _).mono {})
  · exact execCall_full nnn (nextSlot_eq_none_iff.mpr hfull)

/-- Settles O21: by whether SP is at a slot or the sentinel. -/
theorem returnPopsOrUnderflows : Obligations.ReturnPopsOrUnderflows := by
  refine ⟨by decide, fun s => ⟨fun j hj => ?_, fun hempty => ?_⟩⟩
  · have htop : s.sp = .top j := toInt_injective hj
    refine ⟨_, execRet_top htop, rfl, ?_, rfl, ?_⟩
    · rw [hj]
      exact toInt_below j
    · exact ((untouched_setPc s _).mono {}).trans ((untouched_setSp _ _).mono {})
  · exact execRet_empty (toInt_injective hempty)

/-- Settles O22: the return reads the slot the call wrote and takes SP back below it. -/
theorem callThenReturnComesBack : Obligations.CallThenReturnComesBack := by
  intro s nnn hroom
  obtain ⟨j, hj⟩ := exists_nextSlot hroom
  refine ⟨_, execCall_push nnn hj, fun u hsp hstack => ⟨_, execRet_top hsp, ?_, below_of_nextSlot hj⟩⟩
  calc u.stack[j] = (s.push j s.pc).stack[j] := by rw [hstack]; rfl
    _ = s.pc := by rw [stack_push, if_pos rfl]

end Sys2Proof.Machine
end

section
/-! PROOFS. `Dxyn` and `getDisplay()` (spec/41_display.md R152 to R159): where the sprite of `Dxyn` lands, the state it
leaves, and the pixels row by row. -/

namespace Sys2Proof.Machine

open Sys2Proof.Spec

/-! The sprite of `Dxyn`. -/

/-- The bytes of the sprite are those the statement names, on the screen position the statement names (R152 to R154). -/
theorem spriteHit_iff_spriteBitAt (s : State) (x y : RegNum) (n : Nibble) (r : Fin 32) (c : Fin 64) :
    spriteHit (s.readBytes s.i.toNat n.toNat) (s.reg x).toNat (s.reg y).toNat r c = true ↔ SpriteBitAt s x y n r c := by
  rw [spriteHit_iff, SpriteBitAt]
  simp only [readBytes_length, getElem_readBytes, spriteBit, screenRow, screenCol, Fin.ext_iff]
  constructor
  · rintro ⟨j, hj, k, hk⟩
    exact ⟨j, k, hj, hk⟩
  · rintro ⟨j, k, hj, hk⟩
    exact ⟨j, hj, k, hk⟩

theorem readBytes_length_le (s : State) (a : Nat) (n : Nibble) : (s.readBytes a n.toNat).length ≤ 32 := by
  rw [readBytes_length]
  omega

theorem pixel_sprite (s : State) (x y : RegNum) (n : Nibble) (r : Fin 32) (c : Fin 64) :
    pixel (s.sprite x y n).1 r c =
      (pixel s.fb r c ^^ spriteHit (s.readBytes s.i.toNat n.toNat) (s.reg x).toNat (s.reg y).toNat r c) :=
  pixel_drawSprite _ _ _ _ _ _ (readBytes_length_le s _ n)

theorem coll_sprite (s : State) (x y : RegNum) (n : Nibble) :
    (s.sprite x y n).2 = true ↔ ∃ r c, SpriteBitAt s x y n r c ∧ pixel s.fb r c = true := by
  simp only [← spriteHit_iff_spriteBitAt]
  exact coll_drawSprite _ _ _ _ (readBytes_length_le s _ n)

/-- What `Dxyn` leaves: the new screen, then the flag in VF. -/
theorem untouched_draw (s : State) (fb : Framebuffer) (b : Byte) :
    Untouched { regs := [regF], fb := true } s ((s.setFb fb).setReg regF b) :=
  ((untouched_setFb s fb).mono {}).trans ((untouched_setReg _ regF b).mono {})

/-- Settles O26: each pixel is changed by what lands on it, and the flag is the byte of the sprite's collision. -/
theorem drawXorsSprite : Obligations.DrawXorsSprite := by
  refine ⟨encodedBy_drw, fun s x y n hin => ⟨_, exec_drw_inside x y hin, fun r c hhit => ?_, fun r c hmiss => ?_, ?_⟩⟩
  · rw [setReg_fb, setFb_fb, pixel_sprite, (spriteHit_iff_spriteBitAt s x y n r c).mpr hhit, Bool.xor_true]
  · have hfalse := Bool.eq_false_iff.mpr (mt (spriteHit_iff_spriteBitAt s x y n r c).mp hmiss)
    rw [setReg_fb, setFb_fb, pixel_sprite, hfalse, Bool.xor_false]
  · rw [reg_setReg_same]
    obtain ⟨hcoll, hnone⟩ := flagByte_of_iff (coll_sprite s x y n)
    exact ⟨hcoll, hnone, untouched_draw s _ _⟩

/-- A sprite of no rows changes no pixel and does not collide (R156). -/
theorem sprite_zero (s : State) (x y : RegNum) : s.sprite x y 0 = (s.fb, false) := rfl

/-- Settles O28: nothing is drawn, whatever I holds, so VF is all that is written. -/
theorem drawOfHeightZero : Obligations.DrawOfHeightZero := by
  intro s x y
  refine ⟨_, exec_drw_inside x y (.inl rfl), ?_⟩
  rw [sprite_zero]
  exact ⟨rfl, reg_setReg_same _ _ _, untouched_setReg s regF _⟩

/-! Drawing twice. -/

/-- After a first drawing, whose coordinates are not in VF, the second one lands on the same pixels. -/
theorem pixel_sprite_again (s : State) {x y : RegNum} (n : Nibble) (fb : Framebuffer) (b : Byte) (hx : x ≠ regF)
    (hy : y ≠ regF) (r : Fin 32) (c : Fin 64) :
    pixel (((s.setFb fb).setReg regF b).sprite x y n).1 r c =
      (pixel fb r c ^^ spriteHit (s.readBytes s.i.toNat n.toNat) (s.reg x).toNat (s.reg y).toNat r c) := by
  rw [pixel_sprite, reg_setReg_other _ b hx, reg_setReg_other _ b hy]
  rfl

/-- The second drawing takes back the first one. -/
theorem sprite_twice (s : State) {x y : RegNum} (n : Nibble) (b : Byte) (hx : x ≠ regF) (hy : y ≠ regF) :
    (((s.setFb (s.sprite x y n).1).setReg regF b).sprite x y n).1 = s.fb := by
  apply framebuffer_ext
  intro r c
  rw [pixel_sprite_again s n _ b hx hy, pixel_sprite, Bool.xor_assoc, Bool.xor_self, Bool.xor_false]

theorem flagByte_eq_one_iff {f : Bool} : flagByte f = 1#8 ↔ f = true := by cases f <;> decide

/-- Settles O29: the second drawing takes back the first, so the pixels it clears are those the first one set. -/
theorem drawTwiceRestoresScreen : Obligations.DrawTwiceRestoresScreen := by
  intro s x y n hx hy hin
  refine ⟨_, _, exec_drw_inside x y hin, exec_drw_inside x y hin, sprite_twice s n _ hx hy, ?_⟩
  rw [reg_setReg_same, flagByte_eq_one_iff, coll_sprite_iff_cleared, sprite_twice s n _ hx hy]
  simp only [and_comm]

/-! `getDisplay()`. -/

theorem pixelList_eq_flatten (fb : Framebuffer) : pixelList fb = fb.flatten.toList := by
  simp [pixelList, Vector.flatten, Vector.toList, List.flatMap, Function.comp_def]

theorem getElem_pixelList (fb : Framebuffer) (r : Fin 32) (c : Fin 64) :
    (pixelList fb)[r.val * 64 + c.val]? = some (pixel fb r c) := by
  have hlt : r.val * 64 + c.val < 32 * 64 := by omega
  have hdiv : (r.val * 64 + c.val) / 64 = r.val := by omega
  have hmod : (r.val * 64 + c.val) % 64 = c.val := by omega
  rw [pixelList_eq_flatten, Vector.getElem?_toList, Vector.getElem?_flatten, dif_pos hlt]
  simp only [hdiv, hmod]
  rfl

/-- Settles O30: the pixel list is the rows one after the other, 64 pixels each. -/
theorem getDisplayIsRowMajor : Obligations.GetDisplayIsRowMajor := by
  refine fun s => ⟨?_, getElem_pixelList s.fb, rfl⟩
  rw [State.getDisplay, pixelList_eq_flatten, Vector.length_toList]

end Sys2Proof.Machine
end

section
/-! PROOFS. The index register and memory (spec/44_index_memory.md R241 to R246, spec/20_memory.md R66): blocks written
and read, accesses outside memory, and the canonical form of memory. -/

namespace Sys2Proof.Machine

open Sys2Proof.Spec

/-! `Fx1E`. -/

theorem exec_addI (x : RegNum) (s : State) : exec (.addI x) s = .next (s.setI (s.i + zextByte (s.reg x))) := rfl

/-- Settles O32: I alone is written, with the sum mod 2^16. -/
theorem indexAdd : Obligations.IndexAdd := by
  refine ⟨encodedBy_addI, fun s x => ⟨_, exec_addI x s, ?_, untouched_setI s _⟩⟩
  rw [setI_i, BitVec.toNat_add, toNat_zextByte]

/-! Blocks inside memory. -/

/-- A byte of a block just written. -/
theorem byteAt_writeBytes_of_lt (s : State) (a : Nat) {l : List Byte} {k : Nat} (h : k < l.length) :
    (s.writeBytes a l).byteAt (a + k) = l[k] := by
  rw [byteAt_writeBytes, dif_pos ⟨by omega, by omega⟩]
  simp only [Nat.add_sub_cancel_left]

theorem exec_ldB_inside {s : State} (x : RegNum) (h : s.i.toNat + 2 < 0x1000) :
    exec (.ldB x) s = .next (s.writeBytes s.i.toNat (bcdDigits (s.reg x))) :=
  execLdB_inside x (oobAddress_none_iff.mpr (.inr h))

theorem exec_ldMemV_inside {s : State} (x : RegNum) (h : s.i.toNat + x.toNat < 0x1000) :
    exec (.ldMemV x) s = .next (s.writeBytes s.i.toNat (s.regsUpTo x)) :=
  execLdMemV_inside x (oobAddress_none_iff.mpr (.inr h))

theorem exec_ldVMem_inside {s : State} (x : RegNum) (h : s.i.toNat + x.toNat < 0x1000) :
    exec (.ldVMem x) s = .next (s.loadRegs x s.i.toNat) :=
  execLdVMem_inside x (oobAddress_none_iff.mpr (.inr h))

/-- The bytes `Fx33` writes, each a digit and so small enough to be one. -/
theorem byteAt_bcd (s : State) (a : Nat) (b : Byte) :
    ((s.writeBytes a (bcdDigits b)).byteAt a).toNat = b.toNat / 100 ∧
    ((s.writeBytes a (bcdDigits b)).byteAt (a + 1)).toNat = b.toNat / 10 % 10 ∧
    ((s.writeBytes a (bcdDigits b)).byteAt (a + 2)).toNat = b.toNat % 10 := by
  have hbyte : b.toNat < 256 := b.isLt
  have hundreds : (s.writeBytes a (bcdDigits b)).byteAt a = BitVec.ofNat 8 (b.toNat / 100) :=
    byteAt_writeBytes_of_lt s a (k := 0) (by simp)
  have htens : (s.writeBytes a (bcdDigits b)).byteAt (a + 1) = BitVec.ofNat 8 (b.toNat / 10 % 10) :=
    byteAt_writeBytes_of_lt s a (k := 1) (by simp)
  have hones : (s.writeBytes a (bcdDigits b)).byteAt (a + 2) = BitVec.ofNat 8 (b.toNat % 10) :=
    byteAt_writeBytes_of_lt s a (k := 2) (by simp)
  rw [hundreds, htens, hones]
  simp only [BitVec.toNat_ofNat]
  omega

/-- Settles O33: the block written is the three digits. -/
theorem bcdStoresDigits : Obligations.BcdStoresDigits := by
  refine ⟨encodedBy_ldB, fun s x hin => ⟨_, exec_ldB_inside x hin, ?_⟩⟩
  obtain ⟨hundreds, htens, hones⟩ := byteAt_bcd s s.i.toNat (s.reg x)
  exact ⟨hundreds, htens, hones, untouched_writeBytes s s.i.toNat (bcdDigits (s.reg x))⟩

/-- A register of the block `Fx55` stores. -/
theorem byteAt_store (s : State) {x k : RegNum} (h : k.toNat ≤ x.toNat) :
    (s.writeBytes s.i.toNat (s.regsUpTo x)).byteAt (s.i.toNat + k.toNat) = s.reg k := by
  have hlt : k.toNat < (s.regsUpTo x).length := by
    rw [regsUpTo_length]
    omega
  rw [byteAt_writeBytes_of_lt s _ hlt, getElem_regsUpTo, BitVec.ofNat_toNat, BitVec.setWidth_eq]

theorem untouched_store (s : State) (x : RegNum) (a : Nat) :
    Untouched { bytes := addresses a (x.toNat + 1) } s (s.writeBytes a (s.regsUpTo x)) :=
  regsUpTo_length s x ▸ untouched_writeBytes s a (s.regsUpTo x)

/-- Settles O34: the block written is `V0`..`Vx`. -/
theorem blockStore : Obligations.BlockStore :=
  ⟨encodedBy_ldMemV, fun s x hin => ⟨_, exec_ldMemV_inside x hin, fun _ hk => byteAt_store s hk, untouched_store s x _⟩⟩

theorem reg_loadRegs_of_le (s : State) {x k : RegNum} (a : Nat) (h : k.toNat ≤ x.toNat) :
    (s.loadRegs x a).reg k = s.byteAt (a + k.toNat) := by
  rw [reg_loadRegs, if_pos h]

/-- Settles O35: the registers written are `V0`..`Vx`. -/
theorem blockLoad : Obligations.BlockLoad :=
  ⟨encodedBy_ldVMem, fun s x hin =>
    ⟨_, exec_ldVMem_inside x hin, fun _ hk => reg_loadRegs_of_le s _ hk, untouched_loadRegs s x _⟩⟩

/-- Settles O36: the load reads the bytes the store wrote, since I and memory do not depend on the registers. -/
theorem storeThenLoadRestoresRegisters : Obligations.StoreThenLoadRestoresRegisters := by
  intro s x hin
  refine ⟨_, exec_ldMemV_inside x hin, fun regs => ⟨_, exec_ldVMem_inside x hin, fun k hk => ?_⟩⟩
  rw [reg_loadRegs_of_le _ _ hk]
  exact byteAt_store s hk

/-! Accesses outside memory. -/

theorem oobAddress_of_outside {a n : Nat} (hn : n ≠ 0) (h : 0x1000 < a + n) : oobAddress a n = some (max a 0x1000) :=
  oobAddress_some_iff.mpr ⟨⟨hn, h⟩, rfl⟩

/-- Settles O37: each of the four checks all its addresses first, and the check fails. -/
theorem dataOutOfBoundsIsLatched : Obligations.DataOutOfBoundsIsLatched := by
  refine fun s x y n => ⟨fun hn hout => ?_, fun hout => ?_, fun hout => ?_⟩
  · exact execDrw_outside (oobAddress_of_outside hn hout)
  · exact execLdB_outside (oobAddress_of_outside (by decide) (by omega))
  · have hoob := oobAddress_of_outside (Nat.succ_ne_zero x.toNat) (Nat.lt_succ_of_le hout)
    exact ⟨execLdMemV_outside hoob, execLdVMem_outside hoob⟩

/-! The canonical form. -/

theorem memRead_of_unlisted (p : Params) {m : Memory} {a : Nat} (h : ∀ c ∈ m, c.1 ≠ a) :
    memRead p m a = unlistedByte p a := by
  induction m with
  | nil => rfl
  | cons c m ih =>
    obtain ⟨hc, hm⟩ := List.forall_mem_cons.mp h
    simp [memRead, hc, ih hm]

/-- With rising addresses, the byte of a cell is what its address reads as. -/
theorem memRead_of_mem (p : Params) {m : Memory} {c : Host.Cell} (h : m.Pairwise fun c d => c.1 < d.1) (hc : c ∈ m) :
    memRead p m c.1 = c.2 := by
  induction m with
  | nil => cases hc
  | cons d m ih =>
    obtain ⟨hd, hm⟩ := List.pairwise_cons.mp h
    rcases List.mem_cons.mp hc with rfl | hc
    · simp [memRead]
    · simp [memRead, Nat.ne_of_lt (hd c hc), ih hm hc]

/-- The cells of a canonical memory are known from what it reads as. -/
theorem mem_iff_memRead {p : Params} {m : Memory} (h : Memory.wf p m) (c : Host.Cell) :
    c ∈ m ↔ memRead p m c.1 = c.2 ∧ c.2 ≠ unlistedByte p c.1 := by
  constructor
  · exact fun hc => ⟨memRead_of_mem p h.1 hc, (h.2 c hc).2⟩
  · rintro ⟨hread, hne⟩
    by_contra hc
    have hlisted : ∃ d ∈ m, d.1 = c.1 := by
      by_contra hno
      exact hne (hread ▸ memRead_of_unlisted p fun d hd he => hno ⟨d, hd, he⟩)
    obtain ⟨d, hd, he⟩ := hlisted
    have hbyte : d.2 = c.2 := by rw [← memRead_of_mem p h.1 hd, he, hread]
    exact hc (Prod.ext he hbyte ▸ hd)

/-- Settles O38: two strictly rising lists with the same cells are the same list. -/
theorem canonicalMemoryIsUnique : Obligations.CanonicalMemoryIsUnique := by
  intro p m n hm hn hread
  have hcells : ∀ c, c ∈ m ↔ c ∈ n := fun c => by rw [mem_iff_memRead hm, mem_iff_memRead hn, hread]
  have : Std.Irrefl fun c d : Host.Cell => c.1 < d.1 := ⟨fun c => Nat.lt_irrefl c.1⟩
  have : Std.Antisymm fun c d : Host.Cell => c.1 < d.1 := ⟨fun c d h k => absurd h (Nat.lt_asymm k)⟩
  exact hm.1.eq_of_mem_iff hn.1 hcells

end Sys2Proof.Machine
end

section
/-! PROOFS. What each instruction may change (spec/10_state.md R21 to R33): one frame per instruction, and from it the
writers of every piece of state. -/

namespace Sys2Proof.Machine

open Sys2Proof.Spec

/-- The pieces of state `exec` of an instruction may change, the latch among them where it may raise a fault. -/
@[simp] def footprint (i : Instr) (s : State) : Footprint :=
  match i with
  | .sys _ => {}
  | .cls => { fb := true }
  | .ret | .call _ => { pc := true, stack := true, fault := true }
  | .jp _ | .jpV0 _ | .seImm _ _ | .sneImm _ _ | .seReg _ _ | .sneReg _ _ => { pc := true }
  | .skp _ | .sknp _ => { pc := true, draws := true }
  | .ldImm x _ | .addImm x _ | .ldReg x _ | .orReg x _ | .andReg x _ | .xorReg x _ | .ldVDt x => { regs := [x] }
  | .addReg x _ | .sub x _ | .shr x _ | .subn x _ | .shl x _ => { regs := [x, regF] }
  | .rnd x _ => { regs := [x], draws := true }
  | .drw _ _ _ => { regs := [regF], fb := true, fault := true }
  | .ldI _ | .addI _ | .ldF _ => { i := true }
  | .ldDtV _ => { dt := true }
  | .ldStV _ => { st := true }
  | .ldVK _ => { mode := true }
  | .ldB _ => { bytes := addresses s.i.toNat 3, fault := true }
  | .ldMemV x => { bytes := addresses s.i.toNat (x.toNat + 1), fault := true }
  | .ldVMem x => { regs := regsTo x, fault := true }

theorem exec_skp (x : RegNum) (s : State) :
    exec (.skp x) s = .next (s.countDraw.skpWith (Config.keyState s.draws) x) := rfl

theorem exec_sknp (x : RegNum) (s : State) :
    exec (.sknp x) s = .next (s.countDraw.sknpWith (Config.keyState s.draws) x) := rfl

/-- A skip on a drawn key writes PC and counts the draw. -/
theorem untouched_countDraw_skipIf (s : State) (c : Bool) :
    Untouched { pc := true, draws := true } s (s.countDraw.skipIf c) :=
  ((untouched_countDraw s).mono {}).trans ((untouched_skipIf _ c).mono {})

theorem untouched_countDraw_setReg (s : State) (x : RegNum) (b : Byte) :
    Untouched { regs := [x], draws := true } s (s.countDraw.setReg x b) :=
  ((untouched_countDraw s).mono {}).trans ((untouched_setReg _ x b).mono {})

/-- Every instruction stays inside its footprint. -/
theorem exec_untouched {i : Instr} {s t : State} (h : exec i s = .next t) : Untouched (footprint i s) s t := by
  cases i with
  | cls => cases h; exact untouched_setFb s _
  | sys nnn => cases h; exact .refl _ s
  | ret =>
    rcases hsp : s.sp with _ | j
    · cases (execRet_empty hsp).symm.trans h
      exact (untouched_latch s _).mono {}
    · cases (execRet_top hsp).symm.trans h
      exact ((untouched_setPc s _).mono {}).trans ((untouched_setSp _ _).mono {})
  | call nnn =>
    rcases hslot : s.sp.nextSlot with _ | j
    · cases (execCall_full nnn hslot).symm.trans h
      exact (untouched_latch s _).mono {}
    · cases (execCall_push nnn hslot).symm.trans h
      exact ((untouched_push s j _).mono {}).trans ((untouched_setPc _ _).mono {})
  | jp nnn | jpV0 nnn => cases h; exact untouched_setPc s _
  | seImm x kk | sneImm x kk => cases h; exact untouched_skipIf s _
  | seReg x y | sneReg x y => cases h; exact untouched_skipIf s _
  | skp x | sknp x => cases h; exact untouched_countDraw_skipIf s _
  | ldImm x kk | addImm x kk => cases h; exact untouched_setReg s x _
  | ldReg x y | orReg x y | andReg x y | xorReg x y => cases h; exact untouched_setReg s x _
  | ldVDt x => cases h; exact untouched_setReg s x _
  | addReg x y | sub x y | shr x y | subn x y | shl x y => cases h; exact untouched_setRegFlag s x _
  | rnd x kk => cases h; exact untouched_countDraw_setReg s x _
  | drw x y n =>
    rcases hoob : oobAddress s.i.toNat n.toNat with _ | a
    · cases (execDrw_inside x y hoob).symm.trans h
      exact (untouched_draw s _ _).mono {}
    · cases (execDrw_outside hoob).symm.trans h
      exact (untouched_latch s _).mono {}
  | ldI nnn | addI x | ldF x => cases h; exact untouched_setI s _
  | ldDtV x => cases h; exact untouched_setDt s _
  | ldStV x => cases h; exact untouched_setSt s _
  | ldVK x => cases h; exact untouched_setMode s _
  | ldB x =>
    rcases hoob : oobAddress s.i.toNat 3 with _ | a
    · cases (execLdB_inside x hoob).symm.trans h
      exact (untouched_writeBytes s _ (bcdDigits (s.reg x))).mono {}
    · cases (execLdB_outside hoob).symm.trans h
      exact (untouched_latch s _).mono {}
  | ldMemV x =>
    rcases hoob : oobAddress s.i.toNat (x.toNat + 1) with _ | a
    · cases (execLdMemV_inside x hoob).symm.trans h
      exact (untouched_store s x _).mono {}
    · cases (execLdMemV_outside hoob).symm.trans h
      exact (untouched_latch s _).mono {}
  | ldVMem x =>
    rcases hoob : oobAddress s.i.toNat (x.toNat + 1) with _ | a
    · cases (execLdVMem_inside x hoob).symm.trans h
      exact (untouched_loadRegs s x _).mono {}
    · cases (execLdVMem_outside hoob).symm.trans h
      exact (untouched_latch s _).mono {}

/-- The registers of the footprint are those of the table of R23. -/
theorem footprint_regs (i : Instr) (s : State) : (footprint i s).regs = writtenRegs i := by
  cases i <;> rfl

/-- Settles O51: a register outside the table is outside the instruction's footprint. -/
theorem generalRegisterWriters : Obligations.GeneralRegisterWriters := by
  intro i s t z h hz
  exact (exec_untouched h).regs z (footprint_regs i s ▸ hz)

/-! Memory as data: two instructions write a block, and only inside memory. -/

/-- Memory is left alone, or the instruction is one of the two stores and writes a block from I that fits. -/
theorem exec_mem {i : Instr} {s t : State} (h : exec i s = .next t) :
    t.mem = s.mem ∨
    (((∃ x, i = .ldB x) ∨ ∃ x, i = .ldMemV x) ∧
      ∃ l, t.mem = memWriteBytes s.params s.mem s.i.toNat l ∧ s.i.toNat + l.length ≤ memSize) := by
  cases i with
  | ldB x =>
    rcases hoob : oobAddress s.i.toNat 3 with _ | a
    · cases (execLdB_inside x hoob).symm.trans h
      obtain hzero | hfits := oobAddress_none_iff.mp hoob
      · cases hzero
      · exact .inr ⟨.inl ⟨x, rfl⟩, bcdDigits (s.reg x), rfl, hfits⟩
    · cases (execLdB_outside hoob).symm.trans h
      exact .inl rfl
  | ldMemV x =>
    rcases hoob : oobAddress s.i.toNat (x.toNat + 1) with _ | a
    · cases (execLdMemV_inside x hoob).symm.trans h
      obtain hzero | hfits := oobAddress_none_iff.mp hoob
      · cases hzero
      · exact .inr ⟨.inr ⟨x, rfl⟩, s.regsUpTo x, rfl, (regsUpTo_length s x).symm ▸ hfits⟩
    · cases (execLdMemV_outside hoob).symm.trans h
      exact .inl rfl
  | ldVMem x =>
    rcases hoob : oobAddress s.i.toNat (x.toNat + 1) with _ | a
    · cases (execLdVMem_inside x hoob).symm.trans h
      exact .inl rfl
    · cases (execLdVMem_outside hoob).symm.trans h
      exact .inl rfl
  | drw x y n =>
    rcases hoob : oobAddress s.i.toNat n.toNat with _ | a
    · cases (execDrw_inside x y hoob).symm.trans h
      exact .inl rfl
    · cases (execDrw_outside hoob).symm.trans h
      exact .inl rfl
  | ret =>
    rcases hsp : s.sp with _ | j
    · cases (execRet_empty hsp).symm.trans h
      exact .inl rfl
    · cases (execRet_top hsp).symm.trans h
      exact .inl rfl
  | call nnn =>
    rcases hslot : s.sp.nextSlot with _ | j
    · cases (execCall_full nnn hslot).symm.trans h
      exact .inl rfl
    · cases (execCall_push nnn hslot).symm.trans h
      exact .inl rfl
  | _ => cases h; exact .inl rfl

/-! The stack and SP: one pop and one push. -/

/-- What an instruction can do to the stack: nothing, the pop of a return, or the push of a call. -/
theorem exec_stack {i : Instr} {s t : State} (h : exec i s = .next t) :
    (t.sp = s.sp ∧ t.stack = s.stack) ∨
    (i = .ret ∧ ∃ j, s.sp = .top j ∧ t.sp = StackPtr.below j ∧ t.stack = s.stack) ∨
    (∃ nnn, i = .call nnn) ∧ ∃ j, s.sp.nextSlot = some j ∧ t.sp = .top j ∧ t.stack = s.stack.set j s.pc := by
  cases i with
  | ret =>
    rcases hsp : s.sp with _ | j
    · cases (execRet_empty hsp).symm.trans h
      exact .inl ⟨hsp, rfl⟩
    · cases (execRet_top hsp).symm.trans h
      exact .inr (.inl ⟨rfl, j, rfl, rfl, rfl⟩)
  | call nnn =>
    rcases hslot : s.sp.nextSlot with _ | j
    · cases (execCall_full nnn hslot).symm.trans h
      exact .inl ⟨rfl, rfl⟩
    · cases (execCall_push nnn hslot).symm.trans h
      exact .inr (.inr ⟨⟨nnn, rfl⟩, j, rfl, rfl, rfl⟩)
  | _ => exact .inl ((exec_untouched h).stack rfl)

/-! The writers of each piece of state, read off the footprints. -/

/-- A piece of state that changed is in the footprint. -/
theorem footprint_of_changed {α : Type} {flag : Bool} {a b : α} (hframe : flag = false → b = a) (hne : b ≠ a) :
    flag = true := by
  by_contra h
  exact hne (hframe (Bool.eq_false_iff.mpr h))

theorem footprint_pc {i : Instr} {s : State} (h : (footprint i s).pc = true) :
    i = .ret ∨ (∃ nnn, i = .jp nnn) ∨ (∃ nnn, i = .call nnn) ∨ (∃ nnn, i = .jpV0 nnn) ∨
      (∃ x kk, i = .seImm x kk) ∨ (∃ x kk, i = .sneImm x kk) ∨ (∃ x y, i = .seReg x y) ∨ (∃ x y, i = .sneReg x y) ∨
      (∃ x, i = .skp x) ∨ ∃ x, i = .sknp x := by
  cases i <;> simp at h ⊢

theorem footprint_i {i : Instr} {s : State} (h : (footprint i s).i = true) :
    (∃ nnn, i = .ldI nnn) ∨ (∃ x, i = .addI x) ∨ ∃ x, i = .ldF x := by
  cases i <;> simp at h ⊢

theorem footprint_dt {i : Instr} {s : State} (h : (footprint i s).dt = true) : ∃ x, i = .ldDtV x := by
  cases i <;> simp at h ⊢

theorem footprint_st {i : Instr} {s : State} (h : (footprint i s).st = true) : ∃ x, i = .ldStV x := by
  cases i <;> simp at h ⊢

theorem footprint_fb {i : Instr} {s : State} (h : (footprint i s).fb = true) :
    i = .cls ∨ ∃ x y n, i = .drw x y n := by
  cases i <;> simp at h ⊢

theorem footprint_mode {i : Instr} {s : State} (h : (footprint i s).mode = true) : ∃ x, i = .ldVK x := by
  cases i <;> simp at h ⊢

theorem footprint_fault {i : Instr} {s : State} (h : (footprint i s).fault = true) :
    i = .ret ∨ (∃ nnn, i = .call nnn) ∨ (∃ x y n, i = .drw x y n) ∨ (∃ x, i = .ldB x) ∨
      (∃ x, i = .ldMemV x) ∨ ∃ x, i = .ldVMem x := by
  cases i <;> simp at h ⊢

theorem footprint_draws {i : Instr} {s : State} (h : (footprint i s).draws = true) :
    (∃ x kk, i = .rnd x kk) ∨ (∃ x, i = .skp x) ∨ ∃ x, i = .sknp x := by
  cases i <;> simp at h ⊢

theorem footprint_stepped (i : Instr) (s : State) : (footprint i s).stepped = false := by
  cases i <;> rfl

/-- Settles O52: SP, the stack and memory by the cases of `exec_stack` and `exec_mem`, the rest by the footprints. -/
theorem otherStateWriters : Obligations.OtherStateWriters := by
  intro i s t h
  have hframe : Untouched (footprint i s) s t := exec_untouched h
  refine ⟨fun hne => footprint_pc (footprint_of_changed hframe.pc hne),
    fun hne => footprint_i (footprint_of_changed hframe.i hne), fun hne => ?_, fun hne => ?_,
    fun hne => footprint_dt (footprint_of_changed hframe.dt hne),
    fun hne => footprint_st (footprint_of_changed hframe.st hne),
    fun hne => footprint_fb (footprint_of_changed hframe.fb hne), fun hne => ?_,
    fun hne => footprint_mode (footprint_of_changed hframe.mode hne),
    fun hne => footprint_fault (footprint_of_changed hframe.fault hne),
    fun hne => footprint_draws (footprint_of_changed hframe.draws hne),
    hframe.params, hframe.disposed, hframe.stepped (footprint_stepped i s)⟩
  · obtain ⟨hsp, -⟩ | ⟨hret, -⟩ | ⟨hcall, -⟩ := exec_stack h
    · exact absurd hsp hne
    · exact .inl hret
    · exact .inr hcall
  · obtain ⟨-, hstack⟩ | ⟨-, j, -, -, hstack⟩ | ⟨hcall, -⟩ := exec_stack h
    · exact absurd hstack hne
    · exact absurd hstack hne
    · exact hcall
  · obtain hmem | ⟨hstore, -⟩ := exec_mem h
    · exact absurd hmem hne
    · exact hstore

end Sys2Proof.Machine
end

section
/-! PROOFS. The step (spec/40_step_cycle.md R120 to R129): what it fetches, when it stops, and the steps that only
advance, stay put or wait. -/

namespace Sys2Proof.Machine

open Sys2Proof.Spec

/-! The fetch. -/

/-- The high byte counts 256 (R67). -/
theorem toNat_wordOfBytes (hi lo : Byte) : (wordOfBytes hi lo).toNat = hi.toNat * 256 + lo.toNat := by
  have hlo : lo.toNat < 2 ^ 8 := lo.isLt
  rw [wordOfBytes, BitVec.toNat_append, ← Nat.shiftLeft_add_eq_or_of_lt hlo, Nat.shiftLeft_eq]

/-- Settles O8: the fetched word is put together from two bytes, and the ticks change neither memory nor PC. -/
theorem fetchIsBigEndian : Obligations.FetchIsBigEndian := fun s =>
  ⟨toNat_wordOfBytes _ _, fetch16_passTicks s⟩

/-- The state in which a step executes: after the ticks, marked as stepped, PC advanced. -/
def fetched (s : State) : State := s.passTicks.setStepped.advance

theorem fetched_eq (s : State) : fetched s = { s.passTicks with pc := s.pc + 2#16, stepped := true } := by
  rw [← passTicks_pc]
  rfl

/-- A ready machine with PC inside the bound runs what it fetched. -/
theorem step_of_canFetch {s : State} (h : s.CanFetch) : step s = execDecoded (decode s.fetch16) (fetched s) := by
  have hbound : s.passTicks.setStepped.pc.toNat ≤ pcFetchMax := by simpa using h.2
  rw [step_ready h.1, cycle_of_inBound hbound, fetch16_setStepped, fetch16_passTicks]
  rfl

/-- Settles O7: by what the fetched word decodes to. -/
theorem stepRunsTheDecodedInstruction : Obligations.StepRunsTheDecodedInstruction := by
  refine fun s h => ⟨fun i hi => ?_, fun w hw => ?_⟩
  · rw [step_of_canFetch h, hi, fetched_eq]
    rfl
  · rw [step_of_canFetch h, hw, fetched_eq]
    rfl

theorem untouched_passTicks_setStepped (s : State) :
    Untouched { dt := true, st := true, draws := true, stepped := true } s s.passTicks.setStepped :=
  ((untouched_passTicks s).mono {}).trans ((untouched_setStepped _).mono {})

theorem untouched_fetched (s : State) :
    Untouched { pc := true, dt := true, st := true, draws := true, stepped := true } s (fetched s) :=
  ((untouched_passTicks_setStepped s).mono {}).trans ((untouched_setPc _ _).mono {})

/-! The entry checks. -/

theorem entryFault_eq_some_iff {s : State} {f : Fault} :
    s.entryFault = some f ↔
      (s.disposed = true ∧ f = .disposed) ∨ (s.disposed = false ∧ ∃ g, s.fault = some g ∧ f = .latched g) := by
  unfold State.entryFault
  cases s.disposed <;> simp [eq_comm]

theorem entryFault_of_latched {s : State} {f : StepFault} (hd : s.disposed = false) (hf : s.fault = some f) :
    s.entryFault = some (.latched f) := entryFault_eq_some_iff.mpr (.inr ⟨hd, f, hf, rfl⟩)

/-- A step that the entry checks let pass answers a next state. -/
theorem step_answers_next {s : State} (h : s.entryFault = none) : ∃ t, step s = .next t := by
  obtain ⟨f, hf⟩ | hw | hr := step_cases s
  · rw [h] at hf
    cases hf
  · exact ⟨_, step_waiting hw⟩
  · rw [step_ready hr]
    exact cycle_answers_next _

theorem step_eq_fault_iff {s : State} {f : Fault} : step s = .fault f ↔ s.entryFault = some f := by
  refine ⟨fun h => ?_, step_stopped⟩
  rcases he : s.entryFault with _ | g
  · obtain ⟨t, ht⟩ := step_answers_next he
    cases ht.symm.trans h
  · cases (step_stopped he).symm.trans h
    rfl

/-- Settles O10: the outcome of a step is decided by the entry checks. -/
theorem stepStopsOnlyAtEntry : Obligations.StepStopsOnlyAtEntry := by
  refine ⟨fun s r h => ?_, fun s f => step_eq_fault_iff.trans entryFault_eq_some_iff⟩
  rcases he : s.entryFault with _ | f
  · obtain ⟨t, ht⟩ := step_answers_next he
    cases ht.symm.trans h
  · cases (step_stopped he).symm.trans h

/-- Settles O9: the cycle latches at the bound check, and the entry check of the next step finds the latch. -/
theorem pcOutOfBoundsIsLatched : Obligations.PcOutOfBoundsIsLatched := by
  intro s hready hpc
  have hout : pcFetchMax < s.passTicks.setStepped.pc.toNat := by simpa [pcFetchMax] using hpc
  have hstep : step s = .next (s.passTicks.setStepped.latch (.pcOob s.pc)) := by
    rw [step_ready hready, cycle_of_outOfBound hout, setStepped_pc, passTicks_pc]
  have hdisposed : (s.passTicks.setStepped.latch (.pcOob s.pc)).disposed = false := by simpa using hready.1
  refine ⟨_, hstep, rfl, ?_, step_stopped (entryFault_of_latched hdisposed rfl)⟩
  exact ((untouched_passTicks_setStepped s).mono {}).trans ((untouched_latch _ _).mono {})

/-! The reply of a call. -/

theorem replyOf_fail_iff {t : State} {f : StepFault} :
    replyOf (.next t) = some (.fail (.latched f)) ↔ t.fault = some f := by
  cases hf : t.fault <;> cases hm : t.mode <;> simp [replyOf, hf, hm]

theorem replyOf_ok_iff {t : State} : replyOf (.next t) = some .ok ↔ t.fault = none ∧ t.mode = .running := by
  cases hf : t.fault <;> cases hm : t.mode <;> simp [replyOf, hf, hm]

theorem replyOf_pending_iff {t : State} :
    replyOf (.next t) = some .pending ↔ t.fault = none ∧ ∃ x, t.mode = .waitKey x := by
  cases hf : t.fault <;> cases hm : t.mode <;> simp [replyOf, hf, hm]

/-- A decoded word that is not `Fx0A` leaves the mode as it is (R276). -/
theorem execDecoded_keeps_mode {d : Decoded} {s t : State} (hd : ∀ x, d ≠ .instr (.ldVK x))
    (h : execDecoded d s = .next t) : t.mode = s.mode := by
  cases d with
  | instr i => exact onlyKeyWaitSuspends.2 i s t (fun x hx => hd x (hx ▸ rfl)) h
  | undefined w => cases h; rfl

/-- In a machine that is running and unfaulted, a word suspends exactly when it is `Fx0A`. -/
theorem execDecoded_suspends_iff {d : Decoded} {s t : State} (hf : s.fault = none) (hm : s.mode = .running)
    (h : execDecoded d s = .next t) : (t.fault = none ∧ ∃ x, t.mode = .waitKey x) ↔ ∃ x, d = .instr (.ldVK x) := by
  constructor
  · rintro ⟨-, x, hx⟩
    by_contra hno
    have hkeep := execDecoded_keeps_mode (fun x hx => hno ⟨x, hx⟩) h
    rw [hkeep, hm] at hx
    cases hx
  · rintro ⟨x, rfl⟩
    cases (exec_ldVK x s).symm.trans h
    exact ⟨hf, x, rfl⟩

theorem hostCall_of_canFetch {s : State} (h : s.CanFetch) :
    s.hostCall = execDecoded (decode s.fetch16) s.setStepped.advance := by
  have hbound : s.setStepped.pc.toNat ≤ pcFetchMax := h.2
  rw [hostCall_ready h.1, cycle_of_inBound hbound, fetch16_setStepped]

theorem hostCall_waiting {s : State} (h : s.waiting = true) : s.hostCall = .refused .stepWhilePending := by
  obtain ⟨hd, hf, x, hx⟩ := waiting_iff.mp h
  simp [State.hostCall, entryFault_none_iff.mpr ⟨hd, hf⟩, hx]

/-- Settles O11: the reply is read off the state the call leaves, which suspends exactly on `Fx0A`. -/
theorem callRepliesByOutcome : Obligations.CallRepliesByOutcome := by
  refine ⟨fun s h => ?_, fun s h => hostCall_waiting h⟩
  obtain ⟨⟨-, hf, hm⟩, -⟩ := id h
  obtain ⟨t, ht⟩ := execDecoded_answers_next (decode s.fetch16) s.setStepped.advance
  rw [hostCall_of_canFetch h, ht]
  have hsuspends := execDecoded_suspends_iff (s := s.setStepped.advance) hf hm ht
  exact ⟨t, rfl, replyOf_pending_iff.trans hsuspends, fun f => replyOf_fail_iff, replyOf_ok_iff⟩

/-! Steps that only advance, and a step that stays put. -/

theorem exec_sys (nnn : Addr12) (s : State) : exec (.sys nnn) s = .next s := rfl

/-- PC below the bound does not wrap. -/
theorem toNat_advance {a : Word} (h : a.toNat ≤ pcFetchMax) : (a + 2#16).toNat = a.toNat + 2 := by
  have hmax : a.toNat ≤ 0xFFE := h
  bv_omega

/-- Settles O23: a no-op leaves the fetched state as it is. -/
theorem noOpsOnlyAdvance : Obligations.NoOpsOnlyAdvance := by
  refine ⟨fun w hop hcls hret => decode_sys (BitVec.eq_of_toNat_eq hop) hcls hret,
    fun s nnn => ⟨s, exec_sys nnn s, rfl⟩, fun s h hnop => ?_⟩
  have hstep : step s = .next (fetched s) := by
    obtain ⟨nnn, hsys⟩ | ⟨w, hund⟩ := hnop
    · rw [step_of_canFetch h, hsys]
      rfl
    · rw [step_of_canFetch h, hund]
      rfl
  refine ⟨_, hstep, ?_, rfl, rfl, untouched_fetched s⟩
  rw [fetched_eq]
  exact toNat_advance h.2

/-- A jump to itself takes PC back: only the ticks and the mark of the first step are left. -/
theorem step_of_selfJump {s : State} (h : s.AtSelfJump) : step s = .next s.passTicks.setStepped := by
  obtain ⟨hfetch, nnn, hdecode, htarget⟩ := h
  have hback : (fetched s).setPc s.pc = s.passTicks.setStepped := by
    rw [← passTicks_pc]
    rfl
  rw [step_of_canFetch hfetch, hdecode, ← hback, ← htarget]
  rfl

/-- Settles O24: the state left has the same memory and PC, so it is at the same jump. -/
theorem selfJumpStaysPut : Obligations.SelfJumpStaysPut := by
  intro s h
  refine ⟨_, step_of_selfJump h, ?_, rfl, rfl, untouched_passTicks_setStepped s⟩
  obtain ⟨⟨hready, hbound⟩, nnn, hdecode, htarget⟩ := h
  refine ⟨⟨?_, by simpa using hbound⟩, nnn, ?_, by simpa using htarget⟩
  · simpa [State.Ready] using hready
  · rwa [fetch16_setStepped, fetch16_passTicks]

/-! A step while a step is pending. -/

/-- What a press writes: the waiting register and the mode. -/
theorem untouched_takeKey (s : State) (x : RegNum) (b : Byte) :
    Untouched { regs := [x], mode := true } s ((s.setReg x b).setMode .running) :=
  ((untouched_setReg s x b).mono {}).trans ((untouched_setMode _ _).mono {})

theorem awaitWith_some {s : State} {x : RegNum} (c : Key) (hm : s.mode = .waitKey x) (hd : s.disposed = false) :
    s.awaitWith (some c) = (s.setReg x (c.setWidth 8)).setMode .running := press_waiting s c x hm hd

theorem toNat_key (c : Key) : (c.setWidth 8).toNat = c.toNat := BitVec.toNat_setWidth_of_le (by decide)

/-- Settles O45: by whether a press is drawn; a press is the write of the waiting register and of the mode. -/
theorem pendingStepWaitsOrTakesKey : Obligations.PendingStepWaitsOrTakesKey := by
  intro s x hw hm
  obtain ⟨hd, -, -⟩ := waiting_iff.mp hw
  have hticks : Untouched { dt := true, st := true, draws := true } s s.passTicks.countDraw :=
    (untouched_passTicks s).trans ((untouched_countDraw _).mono {})
  have hpress : ∀ c, s.passTicks.countDraw.awaitWith (some c) =
      (s.passTicks.countDraw.setReg x (c.setWidth 8)).setMode .running := fun c =>
    awaitWith_some c (by simpa using hm) (by simpa using hd)
  refine ⟨s.passTicks.countDraw.awaitWith, step_waiting hw, fun k => ?_, ?_, hticks, fun c => ?_⟩
  · cases k with
    | none => exact ⟨rfl, rfl⟩
    | some c => rw [hpress]; exact ⟨rfl, rfl⟩
  · simpa [State.awaitWith] using hm
  · rw [hpress]
    refine ⟨rfl, ?_, (hticks.mono {}).trans ((untouched_takeKey _ x _).mono {})⟩
    rw [setMode_reg, reg_setReg_same, toNat_key]

end Sys2Proof.Machine
end

section
/-! PROOFS. Ticks, keys and the wait of `Fx0A` (spec/45_timers_keys.md R270 to R275, spec/60_exceptions.md R306, R310,
R316, spec/70_reset_and_hazards.md R357). -/

namespace Sys2Proof.Machine

open Sys2Proof.Spec

/-! Ticks at once and ticks one by one. -/

/-- The natural subtraction has the floor at zero. -/
theorem toNat_decay (b : Byte) (n : Nat) : (decay b n).toNat = b.toNat - n := by
  have hbyte : b.toNat < 256 := b.isLt
  unfold decay
  split
  · next hzero => simp [hzero]
  · rw [BitVec.toNat_ofNat]
    omega

theorem decay_zero (b : Byte) : decay b 0 = b := BitVec.eq_of_toNat_eq (toNat_decay b 0)

theorem decay_tickTimer (b : Byte) (n : Nat) : decay (tickTimer b) n = decay b (n + 1) := by
  apply BitVec.eq_of_toNat_eq
  rw [toNat_decay, toNat_decay, tickTimer_toNat]
  omega

theorem tickMany_of_disposed {s : State} (h : s.disposed = true) (n : Nat) : s.tickMany n = s := by
  simp [State.tickMany, h]

theorem tickMany_of_not_disposed {s : State} (h : s.disposed = false) (n : Nat) :
    s.tickMany n = (s.setDt (decay s.dt n)).setSt (decay s.st n) := by
  simp [State.tickMany, h]

theorem tickMany_zero (s : State) : s.tickMany 0 = s := by
  cases hd : s.disposed with
  | true => exact tickMany_of_disposed hd 0
  | false =>
    rw [tickMany_of_not_disposed hd, decay_zero, decay_zero]
    rfl

theorem tickMany_succ (s : State) (n : Nat) : s.tickMany (n + 1) = s.tick.tickMany n := by
  cases hd : s.disposed with
  | true => rw [tick_of_disposed hd, tickMany_of_disposed hd, tickMany_of_disposed hd]
  | false =>
    have hd' : s.tick.disposed = false := (untouched_tick s).disposed.trans hd
    rw [tickMany_of_not_disposed hd, tickMany_of_not_disposed hd', tick_of_not_disposed hd]
    simp only [setSt_dt, setDt_dt, setSt_st, decay_tickTimer]
    rfl

/-- Settles O41: by induction on the number of ticks. -/
theorem ticksAtOnceAreRepeatedTicks : Obligations.TicksAtOnceAreRepeatedTicks := by
  intro s n
  induction n generalizing s with
  | zero => exact tickMany_zero s
  | succ n ih => exact (tickMany_succ s n).trans (ih s.tick)

/-- Settles O42: the ticks between are one decay of the value written. -/
theorem delayTimerReadsWhatTicksLeft : Obligations.DelayTimerReadsWhatTicksLeft := by
  intro s x y n hd
  refine ⟨_, _, exec_ldDtV x s, exec_ldVDt y _, ?_⟩
  rw [reg_setReg_same, ← ticksAtOnceAreRepeatedTicks, tickMany_dt]
  simp [hd, toNat_decay]

/-! The skips on a key. -/

theorem keyMatches_iff {k : Option Key} {b : Byte} : keyMatches k b = true ↔ NamesKey k b := by
  cases k with
  | none => simp [keyMatches, NamesKey]
  | some c =>
    have hnamed : NamesKey (some c) b ↔ c.toNat = b.toNat := by simp [NamesKey]
    rw [hnamed, ← toNat_key c, BitVec.toNat_inj]
    exact beq_iff_eq

/-- A skip after a draw, for a test that decides `p`. -/
theorem skips_after_draw (s : State) {c : Bool} {p : Prop} (h : c = true ↔ p) :
    (p → (s.countDraw.skipIf c).pc = s.pc + 2#16) ∧ (¬ p → (s.countDraw.skipIf c).pc = s.pc) := by
  rw [← h]
  cases c <;> simp

/-- Settles O43: each is a skip, after one draw, on a test that decides whether the key drawn is the named one. -/
theorem keySkips : Obligations.KeySkips := by
  refine ⟨encodedBy_skp, encodedBy_sknp, fun s x =>
    ⟨⟨(s.countDraw.skpWith · x), exec_skp x s, fun k => ?_⟩, ⟨(s.countDraw.sknpWith · x), exec_sknp x s, fun k => ?_⟩⟩⟩
  · obtain ⟨hskip, hstay⟩ := skips_after_draw s (keyMatches_iff (k := k) (b := s.reg x))
    exact ⟨hskip, hstay, rfl, untouched_countDraw_skipIf s _⟩
  · have hnot : (!keyMatches k (s.reg x)) = true ↔ ¬ NamesKey k (s.reg x) := by
      rw [Bool.not_eq_true', Bool.eq_false_iff, ne_eq, keyMatches_iff]
    obtain ⟨hskip, hstay⟩ := skips_after_draw s hnot
    exact ⟨fun hk => hstay (not_not.mpr hk), hskip, rfl, untouched_countDraw_skipIf s _⟩

/-! The wait of `Fx0A`. -/

/-- Settles O44: the ticks leave the wait alone, and the press is the write of the waiting register and of the mode. -/
theorem keyWaitStoresTheKey : Obligations.KeyWaitStoresTheKey := by
  refine ⟨encodedBy_ldVK, fun s x => ⟨_, exec_ldVK x s, rfl, untouched_setMode s _, fun hd n k => ?_⟩,
    fun s k => press_running s k⟩
  rw [← ticksAtOnceAreRepeatedTicks]
  have hpress : ((s.setMode (.waitKey x)).tickMany n).press k =
      (((s.setMode (.waitKey x)).tickMany n).setReg x (k.setWidth 8)).setMode .running :=
    press_waiting _ k x (by simp) (by simpa using hd)
  rw [hpress]
  refine ⟨rfl, ?_, ?_⟩
  · rw [setMode_reg, reg_setReg_same, toNat_key]
  · exact (((untouched_setMode s _).mono {}).trans ((untouched_tickMany _ n).mono {})).trans
      ((untouched_takeKey _ x _).mono {})

theorem dispose_of_not_disposed {s : State} (h : s.disposed = false) : s.dispose = s.setDisposed.setMode .running := by
  simp [State.dispose, h]

/-- Settles O48: a pending step is one of a machine not disposed, and a press has no effect on a disposed one. -/
theorem disposeCancelsTheWait : Obligations.DisposeCancelsTheWait := by
  intro s hw
  obtain ⟨hd, -, x, hx⟩ := waiting_iff.mp hw
  refine ⟨?_, ?_, dispose_v s, fun k => press_of_disposed (dispose_disposed s) k⟩
  · simp [State.disposeReply, hd, hx]
  · rw [dispose_of_not_disposed hd, setMode_mode]

end Sys2Proof.Machine
end

section
/-! PROOFS. Events and runs of events (spec/60_exceptions.md R309, R314 to R320, spec/70_reset_and_hazards.md R351,
R352): what an event can leave, when it fails, and when it has no move. -/

namespace Sys2Proof.Machine

open Sys2Proof.Spec

/-! What a step and an event can leave. -/

theorem hostCall_next {s t : State} (h : s.hostCall = .next t) : s.Ready ∧ cycle s.setStepped = .next t := by
  obtain ⟨f, hf⟩ | hw | hr := step_cases s
  · cases (hostCall_stopped hf).symm.trans h
  · cases (hostCall_waiting hw).symm.trans h
  · exact ⟨hr, (hostCall_ready hr).symm.trans h⟩

/-- Everything a step can leave: the pending step goes on, or one instruction has run. -/
theorem step_next {s t : State} (h : step s = .next t) :
    (s.waiting = true ∧ t = s.passTicks.countDraw.awaitWith (Config.keyPress (s.draws + 1))) ∨
    (s.Ready ∧ cycle s.passTicks.setStepped = .next t) := by
  obtain ⟨f, hf⟩ | hw | hr := step_cases s
  · cases (step_stopped hf).symm.trans h
  · cases (step_waiting hw).symm.trans h
    exact .inl ⟨hw, rfl⟩
  · exact .inr ⟨hr, (step_ready hr).symm.trans h⟩

theorem load_of_stepped {s : State} (hd : s.disposed = false) (hs : s.stepped = true) (bytes : List Byte) :
    s.load bytes = .refused .loadAfterFirstStep := by
  simp [State.load, hd, hs]

/-- The four cases of `loadProgram` (R351, R352, R314, R315). -/
theorem load_cases (s : State) (bytes : List Byte) :
    (s.disposed = true ∨ s.stepped = true) ∨
    (s.disposed = false ∧ s.stepped = false) ∧ (bytes.length ≤ progMax ∨ progMax < bytes.length) := by
  cases s.disposed with
  | true => exact .inl (.inl rfl)
  | false =>
    cases s.stepped with
    | true => exact .inl (.inr rfl)
    | false => exact .inr ⟨⟨rfl, rfl⟩, Nat.lt_or_ge progMax bytes.length |>.symm⟩

theorem load_refused {s : State} (h : s.disposed = true ∨ s.stepped = true) (bytes : List Byte) :
    ∃ r, s.load bytes = .refused r := by
  cases hd : s.disposed with
  | true => exact ⟨_, load_of_disposed hd bytes⟩
  | false => exact ⟨_, load_of_stepped hd (by simpa [hd] using h) bytes⟩

theorem load_next {s t : State} {bytes : List Byte} (h : s.load bytes = .next t) :
    bytes.length ≤ progMax ∧ t = s.writeBytes progBase bytes := by
  obtain hno | ⟨⟨hd, hs⟩, hfits | hlarge⟩ := load_cases s bytes
  · obtain ⟨r, hr⟩ := load_refused hno bytes
    cases hr.symm.trans h
  · cases (load_fits hd hs hfits).symm.trans h
    exact ⟨hfits, rfl⟩
  · cases (load_tooLarge hd hs hlarge).symm.trans h

/-! What no event changes. -/

/-- Whatever the write of a register and of the mode leaves alone, a press leaves alone. -/
theorem press_keeps {α : Type} (f : State → α) (s : State) (k : Key)
    (h : ∀ x b, f ((s.setReg x b).setMode .running) = f s) : f (s.press k) = f s := by
  unfold State.press
  split
  · rfl
  · split
    · rfl
    · exact h _ _

theorem awaitWith_keeps {α : Type} (f : State → α) (s : State) (k : Option Key)
    (h : ∀ x b, f ((s.setReg x b).setMode .running) = f s) : f (s.awaitWith k) = f s := by
  cases k with
  | none => rfl
  | some c => exact press_keeps f s c h

/-- The cycle keeps the fields no instruction writes. -/
theorem cycle_keeps {s t : State} (h : cycle s = .next t) : t.params = s.params ∧ t.stepped = s.stepped := by
  by_cases hpc : s.pc.toNat ≤ pcFetchMax
  · rw [cycle_of_inBound hpc] at h
    cases hd : decode s.fetch16 with
    | instr i =>
      rw [hd] at h
      have hframe : Untouched (footprint i s.advance) s.advance t := exec_untouched h
      exact ⟨hframe.params, hframe.stepped (footprint_stepped i _)⟩
    | undefined w =>
      rw [hd] at h
      cases h
      exact ⟨rfl, rfl⟩
  · cases (cycle_of_outOfBound (Nat.lt_of_not_le hpc)).symm.trans h
    exact ⟨rfl, rfl⟩

/-- Settles O53: the cycle keeps the parameters, and no other agent writes them. -/
theorem parametersNeverChange : Obligations.ParametersNeverChange := by
  refine ⟨fun s t h => ?_, fun e s t h => ?_⟩
  · obtain ⟨-, rfl⟩ | ⟨-, hcycle⟩ := step_next h
    · rw [awaitWith_keeps State.params _ _ fun _ _ => rfl, countDraw_params, passTicks_params]
    · rw [(cycle_keeps hcycle).1, setStepped_params, passTicks_params]
  · cases e with
    | call => exact (cycle_keeps (hostCall_next h).2).1
    | tick => cases h; exact (untouched_tick s).params
    | press k => cases h; exact press_keeps State.params s k fun _ _ => rfl
    | loadProgram bytes => rw [(load_next h).2, writeBytes_params]
    | getDisplay => cases h; rfl
    | dispose => cases h; exact dispose_keeps State.params s rfl

/-- A machine with a latched fault fails at entry, disposed or not. -/
theorem entryFault_isSome_of_fault {s : State} {f : StepFault} (h : s.fault = some f) : ∃ g, s.entryFault = some g := by
  cases hd : s.disposed with
  | true => exact ⟨_, entryFault_of_disposed hd⟩
  | false => exact ⟨_, entryFault_of_latched hd h⟩

/-- Settles O50: a call fails at entry, and no other event writes the latch. -/
theorem latchedFaultIsPermanent : Obligations.LatchedFaultIsPermanent := by
  refine fun s f hf => ⟨fun e t h => ?_, fun hd => ?_⟩
  · cases e with
    | call =>
      obtain ⟨g, hg⟩ := entryFault_isSome_of_fault hf
      cases (hostCall_stopped hg).symm.trans h
    | tick => cases h; exact ((untouched_tick s).fault rfl).trans hf
    | press k => cases h; exact (press_keeps State.fault s k fun _ _ => rfl).trans hf
    | loadProgram bytes => rw [(load_next h).2, writeBytes_fault, hf]
    | getDisplay => cases h; exact hf
    | dispose => cases h; exact (dispose_keeps State.fault s rfl).trans hf
  · have hentry := entryFault_of_latched hd hf
    exact ⟨step_stopped hentry, hostCall_stopped hentry, s.tick, rfl⟩

/-- Settles O49: by the cases of the load, with the frame of a block written at `0x200`; the cycle keeps the mark. -/
theorem loadProgramCopiesOrFails : Obligations.LoadProgramCopiesOrFails := by
  refine ⟨fun s bytes hd hs => ⟨fun hfits => ?_, fun hlarge => load_tooLarge hd hs hlarge⟩,
    fun s bytes hd hs => load_of_stepped hd hs bytes, fun s t hr h => ?_⟩
  · exact ⟨_, load_fits hd hs hfits, fun k hk => byteAt_writeBytes_of_lt s _ hk, untouched_writeBytes s _ bytes⟩
  · rw [step_ready hr] at h
    exact (cycle_keeps h).2

/-! Failures and events without a move. -/

theorem hostCall_eq_fault_iff {s : State} {f : Fault} : s.hostCall = .fault f ↔ s.entryFault = some f := by
  refine ⟨fun h => ?_, hostCall_stopped⟩
  obtain ⟨g, hg⟩ | hw | hr := step_cases s
  · cases (hostCall_stopped hg).symm.trans h
    exact hg
  · cases (hostCall_waiting hw).symm.trans h
  · obtain ⟨t, ht⟩ := cycle_answers_next s.setStepped
    cases ht.symm.trans ((hostCall_ready hr).symm.trans h)

theorem hostCall_refused_iff {s : State} : (∃ r, s.hostCall = .refused r) ↔ s.waiting = true := by
  refine ⟨fun ⟨r, h⟩ => ?_, fun hw => ⟨_, hostCall_waiting hw⟩⟩
  obtain ⟨g, hg⟩ | hw | hr := step_cases s
  · cases (hostCall_stopped hg).symm.trans h
  · exact hw
  · obtain ⟨t, ht⟩ := cycle_answers_next s.setStepped
    cases ht.symm.trans ((hostCall_ready hr).symm.trans h)

theorem load_eq_fault_iff {s : State} {bytes : List Byte} {f : Fault} :
    s.load bytes = .fault f ↔
      s.disposed = false ∧ s.stepped = false ∧ progMax < bytes.length ∧ f = .loadTooLarge bytes.length := by
  refine ⟨fun h => ?_, fun ⟨hd, hs, hlarge, hf⟩ => hf ▸ load_tooLarge hd hs hlarge⟩
  obtain hno | ⟨⟨hd, hs⟩, hfits | hlarge⟩ := load_cases s bytes
  · obtain ⟨r, hr⟩ := load_refused hno bytes
    cases hr.symm.trans h
  · cases (load_fits hd hs hfits).symm.trans h
  · cases (load_tooLarge hd hs hlarge).symm.trans h
    exact ⟨hd, hs, hlarge, rfl⟩

theorem load_refused_iff {s : State} {bytes : List Byte} :
    (∃ r, s.load bytes = .refused r) ↔ s.disposed = true ∨ s.stepped = true := by
  refine ⟨fun ⟨r, h⟩ => ?_, fun h => load_refused h bytes⟩
  obtain hno | ⟨⟨hd, hs⟩, hfits | hlarge⟩ := load_cases s bytes
  · exact hno
  · cases (load_fits hd hs hfits).symm.trans h
  · cases (load_tooLarge hd hs hlarge).symm.trans h

theorem react_eq_fault_iff {e : Event} {s : State} {f : Fault} :
    react e s = .fault f ↔
      (e = .call ∧ s.entryFault = some f) ∨
      ∃ bytes, e = .loadProgram bytes ∧ s.disposed = false ∧ s.stepped = false ∧ progMax < bytes.length ∧
        f = .loadTooLarge bytes.length := by
  cases e with
  | call => simpa [react] using hostCall_eq_fault_iff
  | loadProgram bytes => simpa [react] using load_eq_fault_iff
  | _ => simp [react]

theorem react_refused_iff {e : Event} {s : State} :
    (∃ r, react e s = .refused r) ↔
      (e = .call ∧ s.waiting = true) ∨ ∃ bytes, e = .loadProgram bytes ∧ (s.disposed = true ∨ s.stepped = true) := by
  cases e with
  | call => simpa [react] using hostCall_refused_iff
  | loadProgram bytes => simpa [react] using load_refused_iff
  | _ => simp [react]

/-- A run of one event ends without a state exactly when the event has no move. -/
theorem runEvents_singleton_eq_none_iff {e : Event} {s : State} :
    runEvents [e] s = none ↔ ∃ r, react e s = .refused r := by
  rw [runEvents_cons]
  cases h : react e s with
  | next t => simp [afterEvent_next h]
  | fault f => simp [afterEvent_fault h]
  | refused r => simp [afterEvent_refused h]

/-- Settles O57: a failed event leaves the state as it was; when it fails and when it has no move, event by event. -/
theorem failedCallsDoNotEndARun : Obligations.FailedCallsDoNotEndARun := by
  refine ⟨fun e s f h es => ?_, fun e s f => ?_, fun e s => runEvents_singleton_eq_none_iff.trans react_refused_iff⟩
  · rw [runEvents_cons, afterEvent_fault h]
    rfl
  · rw [react_eq_fault_iff, entryFault_eq_some_iff, and_or_left, or_assoc]
    rfl

/-! The machine's step as a list of events. -/

theorem step_not_waiting {s : State} (h : s.waiting = false) : step s = s.passTicks.hostCall := by
  simp [step, machineStep, h]

theorem tickMany_countDraw (s : State) (n : Nat) : s.countDraw.tickMany n = (s.tickMany n).countDraw := by
  unfold State.tickMany
  rw [countDraw_disposed]
  split <;> rfl

theorem runEvents_ticks_tickMany (n : Nat) (s : State) :
    runEvents (List.replicate n .tick) s = some (s.tickMany n) := by
  rw [runEvents_ticks, ticksAtOnceAreRepeatedTicks]

/-- The ticks before a step, taken after its draw is counted. -/
theorem runEvents_passTicks (s : State) :
    runEvents (List.replicate (Config.ticks s.draws) .tick) s.countDraw = some s.passTicks := by
  rw [runEvents_ticks_tickMany, tickMany_countDraw]
  rfl

/-- Settles O58: the ticks are as many as the draw before the step gives, and a press comes if one is drawn. -/
theorem stepIsAnInterleaving : Obligations.StepIsAnInterleaving := by
  refine fun s => ⟨fun hw => ⟨_, _, runEvents_passTicks s, step_not_waiting hw⟩, fun hw => ?_⟩
  refine ⟨Config.ticks s.draws, s.passTicks.countDraw, ?_, ?_⟩
  · rw [runEvents_ticks_tickMany, tickMany_countDraw, tickMany_countDraw]
    rfl
  · rw [step_waiting hw]
    cases Config.keyPress (s.draws + 1) with
    | none => exact .inl rfl
    | some k => exact .inr ⟨k, rfl⟩

end Sys2Proof.Machine
end

section
/-! PROOFS. The state after construction (spec/10_state.md R39) and the invariant (spec/40_step_cycle.md R133): what an
instruction does to PC and to the stack keeps PC at most `0x10FE` and live return addresses at most `0x1000`. -/

namespace Sys2Proof.Machine

open Sys2Proof.Spec

/-- The invariant reads memory, PC, SP, the stack, the disposed flag and the mode: a state that agrees with one that
meets it on memory and the stack meets it if its own PC and mode do. -/
theorem State.Inv.of_same_memory_and_stack {s t : State} (h : s.Inv) (hmem : t.mem = s.mem)
    (hparams : t.params = s.params) (hpc : t.pc.toNat ≤ 0x10FE) (hsp : t.sp = s.sp) (hstack : t.stack = s.stack)
    (hdisposal : t.disposed = true → t.mode = .running) : t.Inv where
  memory := by rw [hmem, hparams]; exact h.memory
  pcBound := hpc
  returns j hlive := by
    rw [State.LiveSlot, hsp] at hlive
    rw [hstack]
    exact h.returns j hlive
  disposal := hdisposal

/-- Above the glyphs an unlisted byte is zero (R64). -/
theorem unlistedByte_of_ge (p : Params) {a : Nat} (h : 0x50 ≤ a) : unlistedByte p a = 0#8 := by
  have hglyphs : ¬ a < 80 := Nat.not_lt.mpr h
  rw [unlistedByte, dif_neg (by omega), dif_neg hglyphs]

/-- Settles O12: field by field; the glyph of digit 0 is read off memory by evaluation. -/
theorem resetState : Obligations.ResetState :=
  ⟨by decide, fun _ ha => unlistedByte_of_ge _ ha, fun z => Vector.getElem_replicate z.isLt, rfl, rfl, rfl,
    fun j => Vector.getElem_replicate j.isLt, rfl, rfl, pixel_blank, rfl, rfl, rfl⟩

/-- Settles O54: memory lists nothing and the stack is empty. -/
theorem resetMeetsInvariant : Obligations.ResetMeetsInvariant where
  memory := reset_mem_wf
  pcBound := by decide
  returns j hlive := by
    have hempty : (j.val : Int) ≤ -1 := hlive
    omega
  disposal _ := rfl

/-! PC after an instruction. -/

theorem toNat_v0Target_le (s : State) (nnn : Addr12) : (s.v0Target nnn).toNat ≤ 0x10FE := by
  rw [toNat_v0Target]
  have haddr : nnn.toNat < 4096 := nnn.isLt
  have hbyte : (s.reg 0).toNat < 256 := (s.reg 0).isLt
  omega

theorem toNat_zextAddr_le (nnn : Addr12) : (zextAddr nnn).toNat ≤ 0x10FE := by
  rw [toNat_zextAddr]
  have haddr : nnn.toNat < 4096 := nnn.isLt
  omega

theorem toNat_skipIf_le {s : State} (c : Bool) (hpc : s.pc.toNat ≤ 0x1000) : (s.skipIf c).pc.toNat ≤ 0x10FE := by
  cases c with
  | false => exact hpc.trans (by decide)
  | true =>
    rw [skipIf_pc, if_pos rfl]
    bv_omega

/-- From an advanced PC of at most `0x1000`, and live return addresses of at most `0x1000`, no instruction takes PC
above `0x10FE` (R133): the farthest target is `Bnnn`'s. -/
theorem exec_pc_le {i : Instr} {s t : State} (hpc : s.pc.toNat ≤ 0x1000)
    (hreturns : ∀ j : Fin 16, s.LiveSlot j → s.stack[j].toNat ≤ 0x1000) (h : exec i s = .next t) :
    t.pc.toNat ≤ 0x10FE := by
  have hkeep : t.pc = s.pc → t.pc.toNat ≤ 0x10FE := fun he => by
    rw [he]
    exact hpc.trans (by decide)
  cases i with
  | ret =>
    rcases hsp : s.sp with _ | j
    · cases (execRet_empty hsp).symm.trans h
      exact hkeep rfl
    · cases (execRet_top hsp).symm.trans h
      have hlive : s.LiveSlot j := by rw [State.LiveSlot, hsp, toInt_top]
      exact (hreturns j hlive).trans (by decide)
  | call nnn =>
    rcases hslot : s.sp.nextSlot with _ | j
    · cases (execCall_full nnn hslot).symm.trans h
      exact hkeep rfl
    · cases (execCall_push nnn hslot).symm.trans h
      exact toNat_zextAddr_le nnn
  | jp nnn => cases h; exact toNat_zextAddr_le nnn
  | jpV0 nnn => cases h; exact toNat_v0Target_le s nnn
  | seImm x kk | sneImm x kk => cases h; exact toNat_skipIf_le _ hpc
  | seReg x y | sneReg x y => cases h; exact toNat_skipIf_le _ hpc
  | skp x | sknp x => cases h; exact toNat_skipIf_le (s := s.countDraw) _ hpc
  | _ => exact hkeep ((exec_untouched h).pc rfl)

/-! Memory and the stack after an instruction. -/

theorem exec_keeps_wf {i : Instr} {s t : State} (hmem : Memory.wf s.params s.mem) (h : exec i s = .next t) :
    Memory.wf t.params t.mem := by
  rw [(exec_untouched h).params]
  obtain he | ⟨-, l, he, hfits⟩ := exec_mem h
  · rw [he]
    exact hmem
  · rw [he]
    exact memWriteBytes_wf hmem hfits

/-- A return drops the topmost live slot; a call makes one more live, and it holds the advanced PC. -/
theorem exec_keeps_returns {i : Instr} {s t : State} (hpc : s.pc.toNat ≤ 0x1000)
    (hreturns : ∀ j : Fin 16, s.LiveSlot j → s.stack[j].toNat ≤ 0x1000) (h : exec i s = .next t) (j : Fin 16)
    (hlive : t.LiveSlot j) : t.stack[j].toNat ≤ 0x1000 := by
  unfold State.LiveSlot at hlive hreturns
  obtain ⟨hsp, hstack⟩ | ⟨-, k, htop, hsp, hstack⟩ | ⟨-, k, hslot, hsp, hstack⟩ := exec_stack h
  · rw [hsp] at hlive
    rw [hstack]
    exact hreturns j hlive
  · rw [hsp, toInt_below] at hlive
    rw [hstack]
    refine hreturns j ?_
    rw [htop, toInt_top]
    omega
  · rw [hsp, toInt_top] at hlive
    have hpush : t.stack[j] = if j = k then s.pc else s.stack[j] := by
      rw [hstack]
      exact stack_push s k j s.pc
    rw [hpush]
    split
    · exact hpc
    · next hne =>
      have hk : (k.val : Int) = s.sp.toInt + 1 := nextSlot_eq_some_iff.mp hslot
      have hval : j.val ≠ k.val := fun he => hne (Fin.ext he)
      exact hreturns j (by omega)

/-! The cycle, the step and the events. -/

theorem exec_keeps_inv {i : Instr} {s t : State} (hs : s.Inv) (hpc : s.pc.toNat ≤ 0x1000) (hd : s.disposed = false)
    (h : exec i s = .next t) : t.Inv where
  memory := exec_keeps_wf hs.memory h
  pcBound := exec_pc_le hpc hs.returns h
  returns := exec_keeps_returns hpc hs.returns h
  disposal hdt := by
    rw [(exec_untouched h).disposed, hd] at hdt
    cases hdt

theorem cycle_keeps_inv {s t : State} (hs : s.Inv) (hd : s.disposed = false) (h : cycle s = .next t) : t.Inv := by
  by_cases hpc : s.pc.toNat ≤ pcFetchMax
  · have hadvance : s.advance.pc.toNat ≤ 0x1000 := by
      rw [advance_pc, toNat_advance hpc]
      exact Nat.add_le_add_right hpc 2
    have hinv : s.advance.Inv :=
      hs.of_same_memory_and_stack rfl rfl (hadvance.trans (by decide)) rfl rfl hs.disposal
    rw [cycle_of_inBound hpc] at h
    cases hdecode : decode s.fetch16 with
    | instr i =>
      rw [hdecode] at h
      exact exec_keeps_inv hinv hadvance hd h
    | undefined w =>
      rw [hdecode] at h
      cases h
      exact hinv
  · cases (cycle_of_outOfBound (Nat.lt_of_not_le hpc)).symm.trans h
    exact hs.of_same_memory_and_stack rfl rfl hs.pcBound rfl rfl hs.disposal

theorem setStepped_inv {s : State} (hs : s.Inv) : s.setStepped.Inv :=
  hs.of_same_memory_and_stack rfl rfl hs.pcBound rfl rfl hs.disposal

theorem countDraw_inv {s : State} (hs : s.Inv) : s.countDraw.Inv :=
  hs.of_same_memory_and_stack rfl rfl hs.pcBound rfl rfl hs.disposal

theorem passTicks_inv {s : State} (hs : s.Inv) : s.passTicks.Inv :=
  hs.of_same_memory_and_stack (by simp) (by simp) (by simpa using hs.pcBound) (by simp) (by simp)
    (by simpa using hs.disposal)

theorem press_inv {s : State} (hs : s.Inv) (k : Key) : (s.press k).Inv := by
  cases hm : s.mode with
  | running => rw [press_running s k hm]; exact hs
  | waitKey x =>
    cases hd : s.disposed with
    | true => rw [press_of_disposed hd]; exact hs
    | false =>
      rw [press_waiting s k x hm hd]
      exact hs.of_same_memory_and_stack rfl rfl hs.pcBound rfl rfl fun _ => rfl

theorem awaitWith_inv {s : State} (hs : s.Inv) (k : Option Key) : (s.awaitWith k).Inv := by
  cases k with
  | none => exact hs
  | some c => exact press_inv hs c

/-- Settles O55: the ticks and the wait leave memory, PC and the stack alone, and the cycle keeps the invariant. -/
theorem stepKeepsInvariant : Obligations.StepKeepsInvariant := by
  intro s t hs h
  obtain ⟨-, rfl⟩ | ⟨⟨hd, -, -⟩, hcycle⟩ := step_next h
  · exact awaitWith_inv (countDraw_inv (passTicks_inv hs)) _
  · exact cycle_keeps_inv (setStepped_inv (passTicks_inv hs)) (by simpa using hd) hcycle

theorem tick_inv {s : State} (hs : s.Inv) : s.tick.Inv := by
  cases hd : s.disposed with
  | true => rw [tick_of_disposed hd]; exact hs
  | false =>
    rw [tick_of_not_disposed hd]
    exact hs.of_same_memory_and_stack rfl rfl hs.pcBound rfl rfl hs.disposal

theorem dispose_inv {s : State} (hs : s.Inv) : s.dispose.Inv := by
  cases hd : s.disposed with
  | true => rw [dispose_of_disposed hd]; exact hs
  | false =>
    rw [dispose_of_not_disposed hd]
    exact hs.of_same_memory_and_stack rfl rfl hs.pcBound rfl rfl fun _ => rfl

/-- A program that fits ends at the top of memory at the latest. -/
theorem load_inv {s : State} {bytes : List Byte} (hs : s.Inv) (hfits : bytes.length ≤ progMax) :
    (s.writeBytes progBase bytes).Inv where
  memory := memWriteBytes_wf hs.memory (Nat.add_le_add_left hfits progBase)
  pcBound := hs.pcBound
  returns := hs.returns
  disposal := hs.disposal

theorem react_keeps_inv {e : Event} {s t : State} (hs : s.Inv) (h : react e s = .next t) : t.Inv := by
  cases e with
  | call =>
    obtain ⟨⟨hd, -, -⟩, hcycle⟩ := hostCall_next h
    exact cycle_keeps_inv (setStepped_inv hs) hd hcycle
  | tick => cases h; exact tick_inv hs
  | press k => cases h; exact press_inv hs k
  | loadProgram bytes =>
    obtain ⟨hfits, rfl⟩ := load_next h
    exact load_inv hs hfits
  | getDisplay => cases h; exact hs
  | dispose => cases h; exact dispose_inv hs

/-- Settles O56: by induction on the events; an event that fails leaves the state as it was. -/
theorem eventsKeepInvariant : Obligations.EventsKeepInvariant := by
  intro es
  induction es with
  | nil =>
    intro s t hs h
    cases h
    exact hs
  | cons e es ih =>
    intro s t hs h
    rw [runEvents_cons] at h
    obtain ⟨u, hu, hrest⟩ := Option.bind_eq_some_iff.mp h
    refine ih u t ?_ hrest
    obtain hnext | ⟨-, rfl⟩ := afterEvent_cases hu
    · exact react_keeps_inv hs hnext
    · exact hs

end Sys2Proof.Machine
end

section
/-! PROOFS. ST affects no other state and no output (spec/10_state.md R29): every meaning, the cycle, the step and every
event answer the same from two states that differ in ST alone, but for ST. -/

namespace Sys2Proof.Machine

open Sys2Proof.Spec

/-- `f` answers the same, but for ST, from a state and from the state with another ST. -/
def BlindToSt (f : State → Result) : Prop := ∀ (s : State) (b : Byte), SameOutcome withoutSt (f s) (f (s.setSt b))

/-- Two states that are the same but for ST are one state with two values of ST. -/
theorem eq_setSt_of_withoutSt_eq {s t : State} (h : withoutSt s = withoutSt t) : t = s.setSt t.st :=
  (congrArg (·.setSt t.st) h.symm : (withoutSt t).setSt t.st = (withoutSt s).setSt t.st)

/-- Two next states that are the same but for ST are the same outcome but for ST. -/
theorem sameOutcome_of_next {p q : Result} {t u : State} (hp : p = .next t) (hq : q = .next u)
    (h : withoutSt t = withoutSt u) : SameOutcome withoutSt p q := by
  rw [hp, hq]
  exact h

/-- A meaning that passes ST through is blind to it; so is `LD ST, Vx`, which overwrites it. -/
theorem exec_blindToSt (i : Instr) : BlindToSt (exec i) := by
  intro s b
  cases i with
  | ret =>
    rcases hsp : s.sp with _ | j
    · exact sameOutcome_of_next (execRet_empty hsp) (execRet_empty (s := s.setSt b) hsp) rfl
    · exact sameOutcome_of_next (execRet_top hsp) (execRet_top (s := s.setSt b) hsp) rfl
  | call nnn =>
    rcases hslot : s.sp.nextSlot with _ | j
    · exact sameOutcome_of_next (execCall_full nnn hslot) (execCall_full (s := s.setSt b) nnn hslot) rfl
    · exact sameOutcome_of_next (execCall_push nnn hslot) (execCall_push (s := s.setSt b) nnn hslot) rfl
  | drw x y n =>
    rcases hoob : oobAddress s.i.toNat n.toNat with _ | a
    · exact sameOutcome_of_next (execDrw_inside x y hoob) (execDrw_inside (s := s.setSt b) x y hoob) rfl
    · exact sameOutcome_of_next (execDrw_outside hoob) (execDrw_outside (s := s.setSt b) hoob) rfl
  | ldB x =>
    rcases hoob : oobAddress s.i.toNat 3 with _ | a
    · exact sameOutcome_of_next (execLdB_inside x hoob) (execLdB_inside (s := s.setSt b) x hoob) rfl
    · exact sameOutcome_of_next (execLdB_outside hoob) (execLdB_outside (s := s.setSt b) hoob) rfl
  | ldMemV x =>
    rcases hoob : oobAddress s.i.toNat (x.toNat + 1) with _ | a
    · exact sameOutcome_of_next (execLdMemV_inside x hoob) (execLdMemV_inside (s := s.setSt b) x hoob) rfl
    · exact sameOutcome_of_next (execLdMemV_outside hoob) (execLdMemV_outside (s := s.setSt b) hoob) rfl
  | ldVMem x =>
    rcases hoob : oobAddress s.i.toNat (x.toNat + 1) with _ | a
    · exact sameOutcome_of_next (execLdVMem_inside x hoob) (execLdVMem_inside (s := s.setSt b) x hoob) rfl
    · exact sameOutcome_of_next (execLdVMem_outside hoob) (execLdVMem_outside (s := s.setSt b) hoob) rfl
  | _ => rfl

theorem execDecoded_blindToSt (d : Decoded) : BlindToSt (execDecoded d) := by
  cases d with
  | instr i => exact exec_blindToSt i
  | undefined w => exact fun s b => rfl

theorem cycle_blindToSt : BlindToSt cycle := by
  intro s b
  by_cases hpc : s.pc.toNat ≤ pcFetchMax
  · rw [cycle_of_inBound hpc, cycle_of_inBound (s := s.setSt b) hpc]
    exact execDecoded_blindToSt (decode s.fetch16) s.advance b
  · have hout : pcFetchMax < s.pc.toNat := Nat.lt_of_not_le hpc
    rw [cycle_of_outOfBound hout, cycle_of_outOfBound (s := s.setSt b) hout]
    rfl

theorem hostCall_blindToSt : BlindToSt State.hostCall := by
  intro s b
  obtain ⟨f, hf⟩ | hw | hr := step_cases s
  · rw [hostCall_stopped hf, hostCall_stopped (s := s.setSt b) hf]
    rfl
  · rw [hostCall_waiting hw, hostCall_waiting (s := s.setSt b) hw]
    rfl
  · rw [hostCall_ready hr, hostCall_ready (s := s.setSt b) hr]
    exact cycle_blindToSt s.setStepped b

/-- The ticks before a step read ST for ST only. -/
theorem passTicks_setSt (s : State) (b : Byte) : ∃ c, (s.setSt b).passTicks = s.passTicks.setSt c := by
  refine ⟨(s.setSt b).passTicks.st, eq_setSt_of_withoutSt_eq ?_⟩
  unfold State.passTicks State.tickMany
  rw [setSt_disposed]
  split <;> rfl

theorem withoutSt_press (s : State) (b : Byte) (k : Key) :
    withoutSt (s.press k) = withoutSt ((s.setSt b).press k) := by
  unfold State.press
  rw [setSt_mode, setSt_disposed]
  split
  · rfl
  · split <;> rfl

theorem withoutSt_awaitWith (s : State) (b : Byte) (k : Option Key) :
    withoutSt (s.awaitWith k) = withoutSt ((s.setSt b).awaitWith k) := by
  cases k with
  | none => rfl
  | some c => exact withoutSt_press s b c

theorem withoutSt_tick (s : State) (b : Byte) : withoutSt s.tick = withoutSt (s.setSt b).tick := by
  unfold State.tick
  rw [setSt_disposed]
  split <;> rfl

theorem withoutSt_dispose (s : State) (b : Byte) : withoutSt s.dispose = withoutSt (s.setSt b).dispose := by
  unfold State.dispose
  rw [setSt_disposed]
  split <;> rfl

theorem sameOutcome_load (s : State) (b : Byte) (bytes : List Byte) :
    SameOutcome withoutSt (s.load bytes) ((s.setSt b).load bytes) := by
  unfold State.load
  rw [setSt_disposed, setSt_stepped]
  split
  · rfl
  · split
    · rfl
    · split <;> rfl

theorem step_blindToSt : BlindToSt step := by
  intro s b
  obtain ⟨c, hc⟩ := passTicks_setSt s b
  cases hw : s.waiting with
  | true =>
    refine sameOutcome_of_next (step_waiting hw) (step_waiting (s := s.setSt b) hw) ?_
    rw [hc]
    exact withoutSt_awaitWith s.passTicks.countDraw c _
  | false =>
    rw [step_not_waiting hw, step_not_waiting (s := s.setSt b) hw, hc]
    exact hostCall_blindToSt s.passTicks c

theorem react_blindToSt (e : Event) : BlindToSt (react e) := by
  cases e with
  | call => exact hostCall_blindToSt
  | tick => exact withoutSt_tick
  | press k => exact fun s b => withoutSt_press s b k
  | loadProgram bytes => exact fun s b => sameOutcome_load s b bytes
  | getDisplay => exact fun s b => rfl
  | dispose => exact withoutSt_dispose

/-- Settles O59: two states that differ in ST alone are one state with two values of ST. -/
theorem soundTimerAffectsNothing : Obligations.SoundTimerAffectsNothing := by
  intro s t h
  have ht : t = s.setSt t.st := eq_setSt_of_withoutSt_eq h
  rw [ht]
  exact ⟨step_blindToSt s _, fun e => react_blindToSt e s _, rfl⟩

end Sys2Proof.Machine
end
